-- ==== Sys2Proof/Word.lean ====
section
/-! DEFINITION. The byte, the only width of this hardware (00_scope.md R8, R10): a register, a memory cell, an address
and the program counter are each 8 unsigned bits, and arithmetic on them wraps modulo 256. -/

namespace Sys2Proof

/-- An unsigned 8-bit value, 0 to 255 (R10). Addition, subtraction and multiplication wrap modulo 256 (R11, R122). -/
abbrev Byte := BitVec 8

end Sys2Proof
end

