-- ==== Sys2Proof/Syntax.lean ====
section
/-! DEFINITION. The instruction set as syntax: the closed enumeration of 13 instructions (00_scope.md R2, 30_encoding.md R74,
R75, R81), their three formats (R70), and the instruction with its operands. -/

namespace Sys2Proof

/-- The 13 mnemonics, in the order of spec/opcode_table.json. -/
inductive Mnemonic where
  | hlt | ldi | prn | add | mul | push | pop | call | ret | cmp | jmp | jeq | jne
  deriving DecidableEq, Repr

/-- The three formats of R70, named by operand count. -/
inductive Format where
  /-- opcode byte alone -/
  | f0
  /-- opcode byte and operand A -/
  | f1
  /-- opcode byte, operand A and operand B -/
  | f2
  deriving DecidableEq, Repr

/-- An instruction with its operands in the order of R75. A register operand is a register number, 0 to 7 in a well-formed
instruction (R14; `Instr.wellFormed`); an immediate is a byte (R71, R76). -/
inductive Instr where
  | hlt
  | ldi (ra : Nat) (imm : Byte)
  | prn (ra : Nat)
  | add (ra rb : Nat)
  | mul (ra rb : Nat)
  | push (ra : Nat)
  | pop (ra : Nat)
  | call (ra : Nat)
  | ret
  | cmp (ra rb : Nat)
  | jmp (ra : Nat)
  | jeq (ra : Nat)
  | jne (ra : Nat)
  deriving DecidableEq, Repr

/-- The mnemonic of an instruction. -/
def Instr.mnemonic : Instr → Mnemonic
  | .hlt => .hlt
  | .ldi _ _ => .ldi
  | .prn _ => .prn
  | .add _ _ => .add
  | .mul _ _ => .mul
  | .push _ => .push
  | .pop _ => .pop
  | .call _ => .call
  | .ret => .ret
  | .cmp _ _ => .cmp
  | .jmp _ => .jmp
  | .jeq _ => .jeq
  | .jne _ => .jne

end Sys2Proof
end

