-- ==== Sys2Proof/WellFormed.lean ====
section
/-! DEFINITION. Which instruction terms name an instruction of the hardware: every register operand is one of R0 to R7
(00_scope.md R14). Nothing else is checked: every immediate byte is legal (30_encoding.md R76, R78), and nothing forbids R7
as an operand (10_state.md R22). -/

namespace Sys2Proof

/-- `Rn` names a register for n in 0..7 (R14). -/
def regOk (r : Nat) : Bool := decide (r < 8)

/-- Every register operand is R0 to R7. -/
def Instr.wellFormed : Instr → Bool
  | .hlt => true
  | .ldi ra _ => regOk ra
  | .prn ra => regOk ra
  | .add ra rb => regOk ra && regOk rb
  | .mul ra rb => regOk ra && regOk rb
  | .push ra => regOk ra
  | .pop ra => regOk ra
  | .call ra => regOk ra
  | .ret => true
  | .cmp ra rb => regOk ra && regOk rb
  | .jmp ra => regOk ra
  | .jeq ra => regOk ra
  | .jne ra => regOk ra

end Sys2Proof
end

