-- ==== Sys2Proof/Decode.lean ====
section
/-! DEFINITION. The encoding (30_encoding.md): OPCODE_MAP, the dispatcher's presence check, operand selection, the decoder on
a fetched window and on a stream of bytes, and the encoder. -/

namespace Sys2Proof

/-- OPCODE_MAP: the opcode byte of each mnemonic (R74, decision D2). PRESUMED (the LS-8 assignment, not in the source);
unsafe; log 2. -/
def opcodeByte : Mnemonic → Byte
  | .hlt => 0x01#8
  | .ldi => 0x82#8
  | .prn => 0x47#8
  | .add => 0xA0#8
  | .mul => 0xA2#8
  | .push => 0x45#8
  | .pop => 0x46#8
  | .call => 0x50#8
  | .ret => 0x11#8
  | .cmp => 0xA7#8
  | .jmp => 0x54#8
  | .jeq => 0x55#8
  | .jne => 0x56#8

/-- The format of each mnemonic (R70, R74). -/
def format : Mnemonic → Format
  | .hlt => .f0
  | .ldi => .f2
  | .prn => .f1
  | .add => .f2
  | .mul => .f2
  | .push => .f1
  | .pop => .f1
  | .call => .f1
  | .ret => .f0
  | .cmp => .f2
  | .jmp => .f1
  | .jeq => .f1
  | .jne => .f1

/-- The length of a format in bytes (R70). -/
def Format.length : Format → Nat
  | .f0 => 1
  | .f1 => 2
  | .f2 => 3

/-- The declared length of an instruction in bytes, which is authoritative (R73). -/
def instrLength (m : Mnemonic) : Nat := (format m).length

/-- The closed enumeration the dispatcher knows (R81). -/
def allMnemonics : List Mnemonic :=
  [.hlt, .ldi, .prn, .add, .mul, .push, .pop, .call, .ret, .cmp, .jmp, .jeq, .jne]

/-- The dispatcher's presence check (R81): the whole opcode byte is compared (R74). -/
def lookup (op : Byte) : Option Mnemonic :=
  allMnemonics.find? fun m => decide (opcodeByte m = op)

/-- The register a register operand byte selects: bits [2:0], that is r mod 8; bits [7:3] are ignored (R71, R77). -/
def regSelect (r : Byte) : Nat := r.toNat % 8

/-- The instruction a mnemonic and its operand bytes stand for (R75, R76, R77); the bytes a format lacks are not used. -/
def assemble (m : Mnemonic) (a b : Byte) : Instr :=
  match m with
  | .hlt => .hlt
  | .ldi => .ldi (regSelect a) b
  | .prn => .prn (regSelect a)
  | .add => .add (regSelect a) (regSelect b)
  | .mul => .mul (regSelect a) (regSelect b)
  | .push => .push (regSelect a)
  | .pop => .pop (regSelect a)
  | .call => .call (regSelect a)
  | .ret => .ret
  | .cmp => .cmp (regSelect a) (regSelect b)
  | .jmp => .jmp (regSelect a)
  | .jeq => .jeq (regSelect a)
  | .jne => .jne (regSelect a)

/-- The one rejection of the decoder: a byte that is no opcode (R78). -/
structure UnknownOpcode where
  opcode : Byte
  deriving DecidableEq, Repr

/-- The decoder: the instruction whose opcode byte is `op` and whose next two bytes are `a` and `b`, of which it uses as many
as its format has (R70, R81, R90). Every other opcode byte is rejected by name (R78). -/
def decode (op a b : Byte) : Except UnknownOpcode Instr :=
  match lookup op with
  | some m => .ok (assemble m a b)
  | none => .error ⟨op⟩

/-- Byte `k` of an instruction of `nbits` bits given as one number, the first byte in the low bits. -/
def tableByte (nbits w k : Nat) : Byte := BitVec.ofNat 8 (w % 2 ^ nbits / 2 ^ (8 * k))

/-- The decoder on an opcode-table word: byte 0 is the opcode byte, at the lowest address (20_memory.md R54). -/
def decodeTableWord (nbits w : Nat) : Option Instr :=
  match decode (tableByte nbits w 0) (tableByte nbits w 1) (tableByte nbits w 2) with
  | .ok i => some i
  | .error _ => none

/-- Why a stream of bytes does not begin with an instruction. -/
inductive StreamError where
  /-- no byte is left -/
  | endOfBytes
  /-- the first byte is no opcode (R78) -/
  | unknownOpcode (op : Byte)
  /-- the stream ends before the instruction's last operand byte -/
  | missingOperand (m : Mnemonic)
  deriving DecidableEq, Repr

/-- The decoder on a stream: the first instruction and the bytes after it, by the length its opcode declares (R73, R79). -/
def decodeBytes : List Byte → Except StreamError (Instr × List Byte)
  | [] => .error .endOfBytes
  | op :: rest =>
    match lookup op with
    | none => .error (.unknownOpcode op)
    | some m =>
      match format m, rest with
      | .f0, rest => .ok (assemble m 0#8 0#8, rest)
      | .f1, a :: rest => .ok (assemble m a 0#8, rest)
      | .f2, a :: b :: rest => .ok (assemble m a b, rest)
      | _, _ => .error (.missingOperand m)

/-- A register operand's byte: the register number, bits [7:3] clear (R71). -/
def regByte (r : Nat) : Byte := BitVec.ofNat 8 r

/-- The bytes of an instruction in address order (R70, R74, R75). -/
def encode : Instr → List Byte
  | .hlt => [opcodeByte .hlt]
  | .ldi ra imm => [opcodeByte .ldi, regByte ra, imm]
  | .prn ra => [opcodeByte .prn, regByte ra]
  | .add ra rb => [opcodeByte .add, regByte ra, regByte rb]
  | .mul ra rb => [opcodeByte .mul, regByte ra, regByte rb]
  | .push ra => [opcodeByte .push, regByte ra]
  | .pop ra => [opcodeByte .pop, regByte ra]
  | .call ra => [opcodeByte .call, regByte ra]
  | .ret => [opcodeByte .ret]
  | .cmp ra rb => [opcodeByte .cmp, regByte ra, regByte rb]
  | .jmp ra => [opcodeByte .jmp, regByte ra]
  | .jeq ra => [opcodeByte .jeq, regByte ra]
  | .jne ra => [opcodeByte .jne, regByte ra]

/-- The operand count an opcode byte carries in bits [7:6] (R72); informational, no rule of the machine uses it (R73). -/
def operandCount (op : Byte) : Nat := op.toNat / 64

end Sys2Proof
end

