-- ==== Sys2Proof/Config.lean ====
section
/-! DEFINITION. What the source leaves to the implementation (00_scope.md R9): the reset value of the stack pointer, what a
memory cell nobody has written reads as, and the two host result codes, whose values the spec leaves open. The third
parameter of R9, OPCODE_MAP, is the table `opcodeByte` of Decode.lean. -/

namespace Sys2Proof

/-- SP_INIT, the reset value of register 7 (10_state.md R24, decision D3). PRESUMED 0xF4, the LS-8 convention; unsafe; log 3. -/
def Config.spInit : Byte := 0xF4#8

/-- What a memory cell that nobody has written reads as: 0 (10_state.md R34, R38, decision D5). PRESUMED; unsafe; log 5. -/
def Config.unlistedByte : Byte := 0#8

/-- Free: any number. Only `exitUnknownOpcode` and `exitLoadFailure` use it. DESIGN CHOICE; safe; log 14. -/
opaque Config.freeUnknownOpcode : Nat

/-- Free: any number. Only `exitLoadFailure` uses it. DESIGN CHOICE; safe; log 14. -/
opaque Config.freeLoadFailure : Nat

/-- EXIT_UNKNOWN_OPCODE: some nonzero number, which one the spec leaves open (60_exceptions.md R230, decision D14). -/
def Config.exitUnknownOpcode : Nat := Config.freeUnknownOpcode + 1

/-- EXIT_LOAD_FAILURE: some nonzero number other than EXIT_UNKNOWN_OPCODE (R230, D14): as the two free numbers range over
all numbers, the two codes range over all pairs of distinct nonzero numbers. -/
def Config.exitLoadFailure : Nat :=
  if Config.freeLoadFailure + 1 < Config.exitUnknownOpcode then Config.freeLoadFailure + 1
  else Config.freeLoadFailure + 2

end Sys2Proof
end

