-- ==== Sys2Proof/Machine/State.lean ====
section
/-! DEFINITION. The whole state of the block, the tuple (x[0..7], pc, Flags, run, fault, Mem[0..255], out) of 10_state.md, as
plain data, its reset value, and the ways a step could stop. -/

namespace Sys2Proof.Machine

/-- The flags register (10_state.md R28). `clear` exists only between reset and the first CMP (D7, log 7). -/
inductive Flags where
  | clear | equal | greaterThan | lessThan
  deriving DecidableEq, Repr

/-- The run state (R31). -/
inductive RunState where
  | running | halted | faulted
  deriving DecidableEq, Repr

/-- The content of the fault record (R32): the opcode byte that is in no row of OPCODE_MAP, and its address (D11, log 11). -/
structure FaultRecord where
  opcode : Byte
  pc : Byte
  deriving DecidableEq, Repr

/-- Memory as pairs of an address and a byte in canonical form (`Memory.wf`). -/
abbrev Memory := List Host.Cell

/-- The block's whole state. -/
structure State where
  /-- x[0] to x[7]; x[7] is SP (R20, R22) -/
  regs : Vector Byte 8
  /-- the program counter (R26) -/
  pc : Byte
  /-- the flags register (R28) -/
  flags : Flags
  /-- the run state (R31) -/
  run : RunState
  /-- the fault record, `none` unless the run faulted (R32) -/
  fault : Option FaultRecord
  /-- the 256 cells (R34); a cell not listed holds `Config.unlistedByte` -/
  mem : Memory
  /-- the output channel, oldest byte first (R33) -/
  out : List Byte
  deriving DecidableEq, Repr

/-- The state after reset (R38), no program loaded yet (`boot` loads one). R0 to R6: D4, log 4. SP: D3, log 3. pc: D6, log 6.
Flags: D7, log 7. fault: D11, log 11. out: D15, log 15. Memory: D5, log 5. -/
def State.reset : State where
  regs := #v[0#8, 0#8, 0#8, 0#8, 0#8, 0#8, 0#8, Config.spInit]
  pc := 0#8
  flags := .clear
  run := .running
  fault := none
  mem := []
  out := []

/-- Reasons a step stops with no next state. There is none: the block's one exception, UnknownOpcode, has its effect
described and is taken as a next state (60_exceptions.md R220, R221; log 16), and a stopped block keeps its state (log 12).
Raised by nobody; safe. -/
inductive Fault where
  deriving DecidableEq, Repr

/-- Reasons an instruction has no meaning in the model. -/
inductive Refusal where
  /-- an instruction whose arm of `exec` has no meaning yet; no arm of this model is one; safe -/
  | notModelled (mnemonic : String)
  deriving DecidableEq, Repr

end Sys2Proof.Machine
end

