-- ==== Sys2Proof/Machine/Flags.lean ====
section
/-! DEFINITION. The 8-bit ALU (42_arithmetic.md R122): the results of ADD and MUL, which have no status, and the flag value
of CMP, the only flag computation. -/

namespace Sys2Proof.Machine

/-- The sum modulo 256 (R120). -/
def aluAdd (a b : Byte) : Byte := a + b

/-- The low 8 bits of the product (R121). -/
def aluMul (a b : Byte) : Byte := a * b

/-- The flag value of an unsigned comparison (45_compare.md R180). -/
def compareFlags (a b : Byte) : Flags :=
  if a = b then .equal else if b.toNat < a.toNat then .greaterThan else .lessThan

/-- `Flags <- f` (00_scope.md R11). -/
def State.setFlags (s : State) (f : Flags) : State := { s with flags := f }

end Sys2Proof.Machine
end

