-- ==== Sys2Proof/Machine/Operands.lean ====
section
/-! DEFINITION. The register file: the one place registers are read and written (00_scope.md R11, 10_state.md R20 to R22). The
operand forms are a register and an immediate byte; the immediate is used unchanged (30_encoding.md R76). -/

namespace Sys2Proof.Machine

/-- `x[i]`: general register `i mod 8` (R11, R21). -/
def State.x (s : State) (i : Nat) : Byte := s.regs[i % 8]'(Nat.mod_lt i (by decide))

/-- `x[i] <- v`: general register `i mod 8`; a byte is its own value modulo 256 (R11, R21). -/
def State.setX (s : State) (i : Nat) (v : Byte) : State :=
  { s with regs := s.regs.set (i % 8) v (Nat.mod_lt i (by decide)) }

/-- The number of the register that is the stack pointer (R8, R22). -/
def spIndex : Nat := 7

/-- `SP`, a name for `x[7]` (R11). -/
def State.sp (s : State) : Byte := s.x spIndex

/-- `SP <- v`, a name for writing `x[7]` (R11). -/
def State.setSp (s : State) (v : Byte) : State := s.setX spIndex v

end Sys2Proof.Machine
end

