-- ==== Sys2Proof/Machine/Ops.lean ====
section
/-! DEFINITION. The named operations of the machine: memory, the program counter, the output channel, the run state, the
fetch, and taking the UnknownOpcode exception. There is no return from it (60_exceptions.md R227). -/

namespace Sys2Proof.Machine

/-- The canonical form from address `lo` on: addresses strictly rising and below 256, no entry that reads as an unlisted
address does. -/
def Memory.wfFrom (lo : Nat) : Memory → Bool
  | [] => true
  | (a, v) :: rest =>
    decide (lo ≤ a) && decide (a < 256) && decide (v ≠ Config.unlistedByte) && Memory.wfFrom (a + 1) rest

/-- The canonical form of a memory: equal contents are equal lists. -/
def Memory.wf (m : Memory) : Bool := Memory.wfFrom 0 m

/-- The byte at an address of the list. -/
def Memory.read : Memory → Nat → Byte
  | [], _ => Config.unlistedByte
  | (a, v) :: rest, b => if a = b then v else Memory.read rest b

/-- The list without its entries at an address. -/
def Memory.erase : Memory → Nat → Memory
  | [], _ => []
  | (a, v) :: rest, b => if a = b then Memory.erase rest b else (a, v) :: Memory.erase rest b

/-- The list with an entry put before the first higher address. -/
def Memory.insert : Memory → Nat → Byte → Memory
  | [], b, w => [(b, w)]
  | (a, v) :: rest, b, w => if b < a then (b, w) :: (a, v) :: rest else (a, v) :: Memory.insert rest b w

/-- The list with the byte at one address replaced, in canonical form again. -/
def Memory.write (m : Memory) (a : Nat) (v : Byte) : Memory :=
  if v = Config.unlistedByte then Memory.erase m a else Memory.insert (Memory.erase m a) a v

/-- `MemRead(a, 1)` (00_scope.md R12, 20_memory.md R51): every address of 8 bits exists, none faults. -/
def State.memRead (s : State) (a : Byte) : Byte := Memory.read s.mem a.toNat

/-- `MemWrite(a, 1, v)` (R12, R51). -/
def State.memWrite (s : State) (a v : Byte) : State := { s with mem := Memory.write s.mem a.toNat v }

/-- `pc <- t` (R11). -/
def State.setPc (s : State) (t : Byte) : State := { s with pc := t }

/-- Straight-line advance by the instruction's declared length, modulo 256 (30_encoding.md R91). -/
def State.advance (s : State) (m : Mnemonic) : State := s.setPc (s.pc + BitVec.ofNat 8 (instrLength m))

/-- The address of the byte after the instruction: the return address of CALL (44_subroutine.md R160). -/
def State.nextPc (s : State) (m : Mnemonic) : Byte := s.pc + BitVec.ofNat 8 (instrLength m)

/-- `SP <- SP - 1` (43_stack.md R140). -/
def State.decSp (s : State) : State := s.setSp (s.sp - 1#8)

/-- `SP <- SP + 1` (R140). -/
def State.incSp (s : State) : State := s.setSp (s.sp + 1#8)

/-- `Emit(v)`: one byte appended to the output channel (R13, 10_state.md R33). -/
def State.emit (s : State) (v : Byte) : State := { s with out := s.out ++ [v] }

/-- `run <- Halted`; pc is kept (41_ldi_prn_hlt.md R102, D10, log 10). -/
def State.halt (s : State) : State := { s with run := .halted }

/-- `raise UnknownOpcode` (60_exceptions.md R221): run becomes Faulted, the fault record holds the byte and its address, and
nothing else is written (D11, log 11). -/
def State.raiseUnknownOpcode (s : State) (e : UnknownOpcode) : State :=
  { s with run := .faulted, fault := some ⟨e.opcode, s.pc⟩ }

/-- The fetch and decode of one step (30_encoding.md R90): the bytes at pc, pc+1 and pc+2, modulo 256, of which the decoder
uses as many as the opcode declares. A read has no side effect (20_memory.md R57), so the unused ones are unobservable
(log 17). -/
def State.fetch (s : State) : Except UnknownOpcode Instr :=
  decode (s.memRead s.pc) (s.memRead (s.pc + 1#8)) (s.memRead (s.pc + 2#8))

/-- The outcome of a step whose opcode byte is unknown: the exception is taken (R221; log 16). -/
def takeUnknownOpcode (e : UnknownOpcode) (s : State) : Host.Outcome State Fault Refusal :=
  .next (s.raiseUnknownOpcode e)

/-- A block that is Halted or Faulted fetches nothing and keeps its state (30_encoding.md R93). That `step` answers the
unchanged state, where the spec says there is no step, is the model's DESIGN CHOICE; log 12. -/
def stayStopped (s : State) : Host.Outcome State Fault Refusal := .next s

end Sys2Proof.Machine
end

