-- ==== Sys2Proof/Machine/Arithmetic.lean ====
section
/-! DEFINITION. ADD and MUL (42_arithmetic.md); no flag is written (R122). -/

namespace Sys2Proof.Machine

/-- ADD (R120). -/
def execAdd (ra rb : Nat) (s : State) : Host.Outcome State Fault Refusal :=
  .next ((s.setX ra (aluAdd (s.x ra) (s.x rb))).advance .add)

/-- MUL (R121). -/
def execMul (ra rb : Nat) (s : State) : Host.Outcome State Fault Refusal :=
  .next ((s.setX ra (aluMul (s.x ra) (s.x rb))).advance .mul)

end Sys2Proof.Machine
end

