-- ==== Sys2Proof/Machine/Compare.lean ====
section
/-! DEFINITION. CMP (45_compare.md), the only writer of Flags. -/

namespace Sys2Proof.Machine

/-- CMP (R180). -/
def execCmp (ra rb : Nat) (s : State) : Host.Outcome State Fault Refusal :=
  .next ((s.setFlags (compareFlags (s.x ra) (s.x rb))).advance .cmp)

end Sys2Proof.Machine
end

