-- ==== Sys2Proof/Machine/Jumps.lean ====
section
/-! DEFINITION. JMP, JEQ and JNE (46_jumps.md). A target is the full value of a register (R200). -/

namespace Sys2Proof.Machine

/-- JMP (R201). -/
def execJmp (ra : Nat) (s : State) : Host.Outcome State Fault Refusal :=
  .next (s.setPc (s.x ra))

/-- JEQ (R202). -/
def execJeq (ra : Nat) (s : State) : Host.Outcome State Fault Refusal :=
  .next (if s.flags = .equal then s.setPc (s.x ra) else s.advance .jeq)

/-- JNE (R203): `clear` is not `equal`, so it jumps (R29). -/
def execJne (ra : Nat) (s : State) : Host.Outcome State Fault Refusal :=
  .next (if s.flags ≠ .equal then s.setPc (s.x ra) else s.advance .jne)

end Sys2Proof.Machine
end

