-- ==== Sys2Proof/Machine/LdiPrnHlt.lean ====
section
/-! DEFINITION. LDI, PRN and HLT (41_ldi_prn_hlt.md). -/

namespace Sys2Proof.Machine

/-- LDI (R100). -/
def execLdi (ra : Nat) (imm : Byte) (s : State) : Host.Outcome State Fault Refusal :=
  .next ((s.setX ra imm).advance .ldi)

/-- PRN (R101). -/
def execPrn (ra : Nat) (s : State) : Host.Outcome State Fault Refusal :=
  .next ((s.emit (s.x ra)).advance .prn)

/-- HLT (R102); pc keeps the address of the HLT byte (D10, log 10). -/
def execHlt (s : State) : Host.Outcome State Fault Refusal :=
  .next s.halt

end Sys2Proof.Machine
end

