-- ==== Sys2Proof/Machine/Stack.lean ====
section
/-! DEFINITION. PUSH and POP (43_stack.md). The statements run in the written order, which decides the forms that name R7
(D9, log 9). -/

namespace Sys2Proof.Machine

/-- PUSH (R141): x[ra] is read after the decrement. -/
def execPush (ra : Nat) (s : State) : Host.Outcome State Fault Refusal :=
  let s1 := s.decSp
  let s2 := s1.memWrite s1.sp (s1.x ra)
  .next (s2.advance .push)

/-- POP (R142): the increment reads SP as just written if ra is 7. -/
def execPop (ra : Nat) (s : State) : Host.Outcome State Fault Refusal :=
  let s1 := s.setX ra (s.memRead s.sp)
  let s2 := s1.incSp
  .next (s2.advance .pop)

end Sys2Proof.Machine
end

