-- ==== Sys2Proof/Machine/Subroutine.lean ====
section
/-! DEFINITION. CALL and RET (44_subroutine.md). -/

namespace Sys2Proof.Machine

/-- CALL (R160): the return address is the byte after the operand, and x[ra] is read after SP moved (D9, log 9). The operand
was decoded before the write (D8, log 8). -/
def execCall (ra : Nat) (s : State) : Host.Outcome State Fault Refusal :=
  let ret := s.nextPc .call
  let s1 := s.decSp
  let s2 := s1.memWrite s1.sp ret
  .next (s2.setPc (s2.x ra))

/-- RET (R161). -/
def execRet (s : State) : Host.Outcome State Fault Refusal :=
  let s1 := s.setPc (s.memRead s.sp)
  .next s1.incSp

end Sys2Proof.Machine
end

