-- ==== Sys2Proof/Machine/Step.lean ====
section
/-! DEFINITION. One step of the block (30_encoding.md R90, R92, R93), and an instruction placed where the next step fetches
it. -/

namespace Sys2Proof.Machine

/-- One step: enabled while run is Running, it fetches and decodes at pc and runs the handler, or takes UnknownOpcode
(R90); in Halted and Faulted nothing is fetched and nothing changes (R93). -/
def step (s : State) : Host.Outcome State Fault Refusal :=
  match s.run with
  | .running =>
    match s.fetch with
    | .ok i => exec i s
    | .error e => takeUnknownOpcode e s
  | .halted => stayStopped s
  | .faulted => stayStopped s

/-- The state with an opcode-table word stored at pc, pc+1 and pc+2, and run Running, which a fetch needs (R90). It stands
for the host's load (log 22). -/
def State.withFetchWord (s : State) (nbits w : Nat) : State :=
  let s1 := s.memWrite s.pc (tableByte nbits w 0)
  let s2 := s1.memWrite (s.pc + 1#8) (tableByte nbits w 1)
  let s3 := s2.memWrite (s.pc + 2#8) (tableByte nbits w 2)
  { s3 with run := .running }

end Sys2Proof.Machine
end

