-- ==== Sys2Proof/Machine/HostInterface.lean ====
section
/-! DEFINITION. The block's interface to its host (10_state.md R37): loading an image before the run, the program text the host
reads, starting the run, rendering the output channel, and the result code (60_exceptions.md R230, 70_reset_and_hazards.md
R250 to R252). Nothing here acts during a run (log 21). -/

namespace Sys2Proof.Machine

/-- The loader's writes: byte `k` of the image goes to address `i + k` modulo 256, in order (R250, R251; log 13). -/
def State.loadFrom (s : State) (i : Nat) : List Byte → State
  | [] => s
  | b :: rest => State.loadFrom (s.memWrite (BitVec.ofNat 8 i) b) (i + 1) rest

/-- The state at the start of a run of a program image: reset, and the image in memory from address 0 (10_state.md R38). -/
def boot (image : List Byte) : State := State.reset.loadFrom 0 image

/-- White space around a line's literal (R250). Which characters count is DESIGN CHOICE; log 23. -/
def isBlank (c : Char) : Bool := c.isWhitespace

/-- A line without the white space around it. -/
def strip (line : List Char) : List Char :=
  ((line.dropWhile isBlank).reverse.dropWhile isBlank).reverse

/-- The part of a line before its first comment marker `#` (R250, 30_encoding.md R80). -/
def beforeComment (line : List Char) : List Char := line.takeWhile (· ≠ '#')

/-- The value of binary digits, the most significant first, after a value already read; none if a character is no binary
digit. -/
def binaryValue : Nat → List Char → Option Nat
  | acc, [] => some acc
  | acc, c :: rest =>
    if c = '0' then binaryValue (2 * acc) rest
    else if c = '1' then binaryValue (2 * acc + 1) rest
    else none

/-- A token as a base-2 integer in 0 to 255 (R250). -/
def parseToken (token : List Char) : Option Byte :=
  match token, binaryValue 0 token with
  | [], _ => none
  | _ :: _, none => none
  | _ :: _, some v => if v < 256 then some (BitVec.ofNat 8 v) else none

/-- The bytes of one line: none of it for a blank or comment-only line, one for a literal; no result for anything else
(R223, R250). -/
def parseLine (line : List Char) : Option (List Byte) :=
  match strip (beforeComment (strip line)) with
  | [] => some []
  | c :: rest =>
    match parseToken (c :: rest) with
    | some b => some [b]
    | none => none

/-- The lines of a text. -/
def splitLines : List Char → List (List Char)
  | [] => [[]]
  | c :: rest =>
    if c = '\n' then [] :: splitLines rest
    else
      match splitLines rest with
      | [] => [[c]]
      | l :: ls => (c :: l) :: ls

/-- The bytes of a list of lines; any malformed line makes the whole load fail (R250). -/
def parseLines : List (List Char) → Option (List Byte)
  | [] => some []
  | l :: ls =>
    match parseLine l, parseLines ls with
    | some bs, some rest => some (bs ++ rest)
    | _, _ => none

/-- The image of a program text (R250). -/
def parseProgram (text : List Char) : Option (List Byte) := parseLines (splitLines text)

/-- How a run starts: in the reset state with the image loaded, or not at all (R37, R223). -/
inductive Launch where
  /-- the run starts in this state -/
  | started (s : State)
  /-- LoadFailure: the loader produced no byte sequence, and no step is taken (R223) -/
  | loadFailure
  deriving DecidableEq, Repr

/-- Starting a run from what the loader produced (R223, R252). -/
def launch : Option (List Byte) → Launch
  | some image => .started (boot image)
  | none => .loadFailure

/-- Starting a run from a program text, `none` where the source is unreadable (R223, R250). -/
def launchText : Option (List Char) → Launch
  | some text => launch (parseProgram text)
  | none => .loadFailure

/-- The state after a number of steps (30_encoding.md R92). -/
def runFor : Nat → State → State
  | 0, s => s
  | n + 1, s =>
    match step s with
    | .next t => runFor n t
    | .fault _ => s
    | .refused _ => s

/-- What the host reports of a run state: nothing while running, 0 when Halted, EXIT_UNKNOWN_OPCODE when Faulted (R230, R231;
log 14). -/
def RunState.resultCode : RunState → Option Nat
  | .running => none
  | .halted => some 0
  | .faulted => some Config.exitUnknownOpcode

/-- What the host reports of a launch whose run has taken a number of steps (R230). -/
def Launch.resultCode : Launch → Nat → Option Nat
  | .loadFailure, _ => some Config.exitLoadFailure
  | .started s, n => (runFor n s).run.resultCode

/-- The host's rendering of one byte: base-10 digits and a line terminator (10_state.md R33, R37, decision D20; log 20). -/
def renderByte (v : Byte) : List Char := Nat.toDigits 10 v.toNat ++ ['\n']

/-- The host's rendering of the output channel, in order (R33). -/
def renderOut (out : List Byte) : List Char := out.flatMap renderByte

end Sys2Proof.Machine
end

