-- ==== Sys2Proof/Safety.lean ====
section
/-! DEFINITION. What counts as a sound state and as a safe run, in the terms the statements use. -/

namespace Sys2Proof.Machine

/-- The fault record holds exactly in Faulted, names pc and the byte there, and that byte is no opcode (10_state.md R32,
60_exceptions.md R221; log 11). -/
def State.faultRecordFits (s : State) : Bool :=
  match s.run, s.fault with
  | .faulted, some f => decide (f.pc = s.pc) && decide (f.opcode = s.memRead s.pc) && decide (lookup f.opcode = none)
  | .faulted, none => false
  | .running, f => decide (f = none)
  | .halted, f => decide (f = none)

/-- In Halted, pc is at an HLT byte (41_ldi_prn_hlt.md R102; log 10). -/
def State.haltFits (s : State) : Bool :=
  match s.run with
  | .halted => decide (s.memRead s.pc = opcodeByte .hlt)
  | .running => true
  | .faulted => true

/-- The invariant: canonical memory, a fault record that fits, and a halt at an HLT byte. That every register, cell and pc is
in 0 to 255 and Flags one of four values (10_state.md R35) holds by their types. -/
def State.Inv (s : State) : Prop :=
  s.mem.wf = true ∧ s.faultRecordFits = true ∧ s.haltFits = true

/-- The states a run of a program image passes through (30_encoding.md R92). -/
inductive Reachable (image : List Byte) : State → Prop where
  | start : Reachable image (boot image)
  | next (s t : State) : Reachable image s → step s = .next t → Reachable image t

/-- A run ends cleanly if some number of steps reaches Halted (R92). -/
def EndsCleanly (s : State) : Prop := ∃ n, (runFor n s).run = .halted

/-- A run is safe if no number of steps reaches Faulted. -/
def NeverFaults (s : State) : Prop := ∀ n, (runFor n s).run ≠ .faulted

end Sys2Proof.Machine
end

