-- ==== Sys2Proof/Certificates/Slice0/Obligations.lean ====
section
/-! DEFINITION. The statements for the provers, each a Prop about the model, and the words they share. The basis of each is in
OBLIGATIONS.json; a docstring names the rule, and where a clause is a decision of the spec (D<n>) or of the model, its log entry. -/

open Sys2Proof Sys2Proof.Machine

namespace Sys2Proof.Statements

/-- `t` is `s` but for the components named: each of the seven components of the block's state (10_state.md) that is not
named is what it was in `s`, every register and every memory byte included. -/
def Becomes (s t : State) (pc : Byte := s.pc) (x : Nat → Byte := s.x) (flags : Flags := s.flags)
    (run : RunState := s.run) (fault : Option FaultRecord := s.fault) (mem : Byte → Byte := s.memRead)
    (out : List Byte := s.out) : Prop :=
  t.pc = pc ∧ (∀ k, t.x k = x k) ∧ t.flags = flags ∧ t.run = run ∧ t.fault = fault ∧
    (∀ a, t.memRead a = mem a) ∧ t.out = out

/-- The registers `x` with register `r mod 8` holding `v`. -/
def withReg (x : Nat → Byte) (r : Nat) (v : Byte) : Nat → Byte :=
  fun k => if k % 8 = r % 8 then v else x k

/-- The memory `mem` with cell `a` holding `v`. -/
def withByte (mem : Byte → Byte) (a v : Byte) : Byte → Byte :=
  fun b => if b = a then v else mem b

/-- These bytes stand in memory from address `a` on, addresses modulo 256. -/
def BytesAt (s : State) : Byte → List Byte → Prop
  | _, [] => True
  | a, b :: rest => s.memRead a = b ∧ BytesAt s (a + 1#8) rest

/-- The block is running and these bytes stand at pc. -/
def AtBytes (s : State) (bytes : List Byte) : Prop := s.run = .running ∧ BytesAt s s.pc bytes

/-- The stream decoder reads these instructions from these bytes, in order, and no byte is left. -/
def DecodesInOrder : List Instr → List Byte → Prop
  | [], bytes => bytes = []
  | i :: is, bytes => ∃ rest, decodeBytes bytes = .ok (i, rest) ∧ DecodesInOrder is rest

/-- The registers an instruction reads (10_state.md R23). -/
def regsRead : Instr → List Nat
  | .hlt => []
  | .ldi _ _ => []
  | .prn ra => [ra]
  | .add ra rb => [ra, rb]
  | .mul ra rb => [ra, rb]
  | .push ra => [ra, 7]
  | .pop _ => [7]
  | .call ra => [ra, 7]
  | .ret => [7]
  | .cmp ra rb => [ra, rb]
  | .jmp ra => [ra]
  | .jeq ra => [ra]
  | .jne ra => [ra]

/-- The registers an instruction writes (R23). -/
def regsWritten : Instr → List Nat
  | .hlt => []
  | .ldi ra _ => [ra]
  | .prn _ => []
  | .add ra _ => [ra]
  | .mul ra _ => [ra]
  | .push _ => [7]
  | .pop ra => [ra, 7]
  | .call _ => [7]
  | .ret => [7]
  | .cmp _ _ => []
  | .jmp _ => []
  | .jeq _ => []
  | .jne _ => []

/-- Register `k` is one of a list, indexes modulo 8. -/
def Names (l : List Nat) (k : Nat) : Prop := ∃ r ∈ l, r % 8 = k % 8

/-- The instructions that transfer control or stop the block; every other one is straight-line (30_encoding.md R90, R91). -/
def endsElsewhere : Mnemonic → Bool
  | .hlt => true
  | .ldi => false
  | .prn => false
  | .add => false
  | .mul => false
  | .push => false
  | .pop => false
  | .call => true
  | .ret => true
  | .cmp => false
  | .jmp => true
  | .jeq => true
  | .jne => true

/-- The eight binary digits of a byte, the most significant first. -/
def binaryDigits (v : Byte) : List Char :=
  [7, 6, 5, 4, 3, 2, 1, 0].map fun k => if v.getLsbD k then '1' else '0'

/-- The text of an image: one byte per line as a base-2 literal (70_reset_and_hazards.md R250). -/
def programText (image : List Byte) : List Char := image.flatMap fun v => binaryDigits v ++ ['\n']

end Sys2Proof.Statements

open Sys2Proof.Statements

/-! ### Encoding -/

/-- Decoding an encoded well-formed instruction gives it back, with every operand, and the bytes after it untouched; and the
encodings of a sequence of them, one after another, decode to that sequence and end with it. -/
def Obligations.DecodeOfEncodeIsIdentity : Prop :=
  (∀ (i : Instr) (rest : List Byte), i.wellFormed = true → decodeBytes (encode i ++ rest) = .ok (i, rest)) ∧
  (∀ is : List Instr, (∀ i ∈ is, i.wellFormed = true) → DecodesInOrder is (is.flatMap encode))

/-- Whatever the stream decoder accepts is a well-formed instruction of its declared length, whose encoding begins with the
same opcode byte; only ignored bits of operand bytes can differ (30_encoding.md R71, R73). -/
def Obligations.DecodedStreamIsAnEncoding : Prop :=
  ∀ (bytes rest : List Byte) (i : Instr), decodeBytes bytes = .ok (i, rest) →
    i.wellFormed = true ∧ ∃ w, bytes = w ++ rest ∧ w.length = (encode i).length ∧ w.head? = (encode i).head? ∧
      decodeBytes (encode i ++ rest) = .ok (i, rest)

/-- The 13 opcode bytes, and that every other byte is no opcode (R74, R78). The values are the spec's decision D2; log 2. -/
def Obligations.OpcodeMapIsTheTables : Prop :=
  lookup 0x01#8 = some .hlt ∧ lookup 0x82#8 = some .ldi ∧ lookup 0x47#8 = some .prn ∧ lookup 0xA0#8 = some .add ∧
  lookup 0xA2#8 = some .mul ∧ lookup 0x45#8 = some .push ∧ lookup 0x46#8 = some .pop ∧ lookup 0x50#8 = some .call ∧
  lookup 0x11#8 = some .ret ∧ lookup 0xA7#8 = some .cmp ∧ lookup 0x54#8 = some .jmp ∧ lookup 0x55#8 = some .jeq ∧
  lookup 0x56#8 = some .jne ∧
  ∀ op : Byte, op ∉ ([0x01#8, 0x82#8, 0x47#8, 0xA0#8, 0xA2#8, 0x45#8, 0x46#8, 0x50#8, 0x11#8, 0xA7#8, 0x54#8, 0x55#8,
    0x56#8] : List Byte) → lookup op = none

/-- The top two bits of each opcode are its operand count, so the optional cross-check never fails (R72, R73, D18; log 19),
and no opcode has 0b11 there. -/
def Obligations.TopBitsAreOperandCount : Prop :=
  (∀ m : Mnemonic, operandCount (opcodeByte m) + 1 = instrLength m) ∧
  ∀ op : Byte, operandCount op = 3 → lookup op = none

/-- A register operand byte r selects register r mod 8, its bits [2:0], for every mnemonic with a register operand, and an
immediate is all its bits (R71). So two windows whose register operand bytes agree in those bits decode alike, whatever their
bits [7:3]. -/
def Obligations.OperandBytesSelectByLowBits : Prop :=
  (∀ op a a' b, a.toNat % 8 = a'.toNat % 8 → decode op a b = decode op a' b) ∧
  (∀ op a b b', lookup op ≠ some .ldi → b.toNat % 8 = b'.toNat % 8 → decode op a b = decode op a b') ∧
  (∀ a b, decode (opcodeByte .ldi) a b = .ok (.ldi (a.toNat % 8) b)) ∧
  (∀ a b, decode (opcodeByte .prn) a b = .ok (.prn (a.toNat % 8))) ∧
  (∀ a b, decode (opcodeByte .add) a b = .ok (.add (a.toNat % 8) (b.toNat % 8))) ∧
  (∀ a b, decode (opcodeByte .mul) a b = .ok (.mul (a.toNat % 8) (b.toNat % 8))) ∧
  (∀ a b, decode (opcodeByte .push) a b = .ok (.push (a.toNat % 8))) ∧
  (∀ a b, decode (opcodeByte .pop) a b = .ok (.pop (a.toNat % 8))) ∧
  (∀ a b, decode (opcodeByte .call) a b = .ok (.call (a.toNat % 8))) ∧
  (∀ a b, decode (opcodeByte .cmp) a b = .ok (.cmp (a.toNat % 8) (b.toNat % 8))) ∧
  (∀ a b, decode (opcodeByte .jmp) a b = .ok (.jmp (a.toNat % 8))) ∧
  (∀ a b, decode (opcodeByte .jeq) a b = .ok (.jeq (a.toNat % 8))) ∧
  (∀ a b, decode (opcodeByte .jne) a b = .ok (.jne (a.toNat % 8)))

/-- Words written out from the table of R74, one of each format and family (D2; log 2). -/
def Obligations.TableWordsDecode : Prop :=
  decodeTableWord 24 0x080082 = some (.ldi 0 8) ∧ decodeTableWord 16 0x0047 = some (.prn 0) ∧
  decodeTableWord 8 0x01 = some .hlt ∧ decodeTableWord 24 0x0100A0 = some (.add 0 1) ∧
  decodeTableWord 16 0x0745 = some (.push 7) ∧ decodeTableWord 16 0x0150 = some (.call 1) ∧
  decodeTableWord 8 0x11 = some .ret ∧ decodeTableWord 24 0x0303A7 = some (.cmp 3 3) ∧
  decodeTableWord 16 0x0355 = some (.jeq 3) ∧ decodeTableWord 24 0x330A82 = some (.ldi 2 0x33) ∧
  decodeTableWord 8 0xA1 = none ∧ decodeTableWord 8 0x00 = none

/-! ### One step -/

/-- A running block runs exactly the handler of the instruction its decoder reads at pc, from the state before the step, so
every operand is latched before any write (30_encoding.md R90; D8, log 8). -/
def Obligations.StepRunsTheDecodedInstruction : Prop :=
  ∀ (s : State) (i : Instr), s.run = .running →
    decode (s.memRead s.pc) (s.memRead (s.pc + 1#8)) (s.memRead (s.pc + 2#8)) = .ok i → step s = exec i s

/-- A running block with the encoding of a well-formed instruction at pc runs it, wherever it stands in memory, across the
wrap from 255 to 0 included (R90, 20_memory.md R55). -/
def Obligations.StepRunsTheEncodedInstruction : Prop :=
  ∀ (s : State) (i : Instr), i.wellFormed = true → AtBytes s (encode i) → step s = exec i s

/-- A byte at pc that is no opcode: Faulted, the record holds the byte and its address, and nothing else changes, pc included
(60_exceptions.md R221; D11, log 11). That it is a next state is log 16. -/
def Obligations.UnknownOpcodeFaultsPrecisely : Prop :=
  ∀ s : State, s.run = .running → lookup (s.memRead s.pc) = none →
    ∃ t, step s = .next t ∧ Becomes s t (run := .faulted) (fault := some ⟨s.memRead s.pc, s.pc⟩)

/-- A block that is Halted or Faulted keeps its state for ever (30_encoding.md R93). That its steps answer that same state
is the model's choice, log 12. -/
def Obligations.StoppedBlockKeepsItsState : Prop :=
  ∀ (n : Nat) (s : State), s.run ≠ .running → Sys2Proof.core.run n s = .next s

/-- No run of any length ends in a fault or a refusal of the model: arithmetic, addresses, operands and the stack cannot
fault (60_exceptions.md R220); UnknownOpcode and a stopped block are next states (log 16, log 12). -/
def Obligations.RunsNeverStick : Prop :=
  ∀ (n : Nat) (s : State), ∃ t, Sys2Proof.core.run n s = .next t

/-- The run state moves only from Running to Halted at an HLT byte and from Running to Faulted at a byte that is no opcode,
and there it does move (10_state.md R31; D12; log 12). -/
def Obligations.RunStateTransitions : Prop :=
  ∀ s t : State, step s = .next t →
    (s.run ≠ .running → t.run = s.run) ∧
    (s.run = .running →
      (t.run = .halted ↔ s.memRead s.pc = opcodeByte .hlt) ∧
      (t.run = .faulted ↔ lookup (s.memRead s.pc) = none))

/-! ### Each instruction: result, frame and completion, for every operand and state, as a handler and as a step -/

/-- LDI (R100). -/
def Obligations.LdiLoadsTheImmediate : Prop :=
  (∀ (ra : Nat) (imm : Byte) (s : State), ∃ t, exec (.ldi ra imm) s = .next t ∧
    Becomes s t (pc := s.pc + 3#8) (x := withReg s.x ra imm)) ∧
  (∀ (a b : Byte) (s : State), AtBytes s [opcodeByte .ldi, a, b] → ∃ t, step s = .next t ∧
    Becomes s t (pc := s.pc + 3#8) (x := withReg s.x (a.toNat % 8) b))

/-- PRN (R101): the byte is appended to the output channel. The last clause, that the host renders it after what it rendered
before, as its decimal digits and one newline character, rests on the spec's decision D20; log 20. -/
def Obligations.PrnEmitsTheRegister : Prop :=
  (∀ (ra : Nat) (s : State), ∃ t, exec (.prn ra) s = .next t ∧
    Becomes s t (pc := s.pc + 2#8) (out := s.out ++ [s.x ra])) ∧
  (∀ (a : Byte) (s : State), AtBytes s [opcodeByte .prn, a] → ∃ t, step s = .next t ∧
    Becomes s t (pc := s.pc + 2#8) (out := s.out ++ [s.x (a.toNat % 8)])) ∧
  (∀ (out : List Byte) (v : Byte), renderOut (out ++ [v]) = renderOut out ++ (Nat.toDigits 10 v.toNat ++ ['\n']))

/-- HLT (R102). That pc keeps the address of the HLT byte is the spec's decision D10; log 10. -/
def Obligations.HltHalts : Prop :=
  (∀ s : State, ∃ t, exec .hlt s = .next t ∧ Becomes s t (run := .halted)) ∧
  (∀ s : State, AtBytes s [opcodeByte .hlt] → ∃ t, step s = .next t ∧ Becomes s t (run := .halted))

/-- ADD (R120): the sum modulo 256, no status. -/
def Obligations.AddAddsModulo256 : Prop :=
  (∀ (ra rb : Nat) (s : State), ∃ t, exec (.add ra rb) s = .next t ∧
    Becomes s t (pc := s.pc + 3#8)
      (x := withReg s.x ra (BitVec.ofNat 8 (((s.x ra).toNat + (s.x rb).toNat) % 256)))) ∧
  (∀ (a b : Byte) (s : State), AtBytes s [opcodeByte .add, a, b] → ∃ t, step s = .next t ∧
    Becomes s t (pc := s.pc + 3#8) (x := withReg s.x (a.toNat % 8)
      (BitVec.ofNat 8 (((s.x (a.toNat % 8)).toNat + (s.x (b.toNat % 8)).toNat) % 256))))

/-- MUL (R121): the low 8 bits of the product, no status. -/
def Obligations.MulMultipliesModulo256 : Prop :=
  (∀ (ra rb : Nat) (s : State), ∃ t, exec (.mul ra rb) s = .next t ∧
    Becomes s t (pc := s.pc + 3#8)
      (x := withReg s.x ra (BitVec.ofNat 8 (((s.x ra).toNat * (s.x rb).toNat) % 256)))) ∧
  (∀ (a b : Byte) (s : State), AtBytes s [opcodeByte .mul, a, b] → ∃ t, step s = .next t ∧
    Becomes s t (pc := s.pc + 3#8) (x := withReg s.x (a.toNat % 8)
      (BitVec.ofNat 8 (((s.x (a.toNat % 8)).toNat * (s.x (b.toNat % 8)).toNat) % 256))))

/-- PUSH (R141): one byte stored, at SP - 1. The value is read after the decrement, which is seen only where the operand is R7
(D9; log 9). -/
def Obligations.PushStoresBelowSp : Prop :=
  (∀ (ra : Nat) (s : State), ∃ t, exec (.push ra) s = .next t ∧
    Becomes s t (pc := s.pc + 2#8) (x := withReg s.x 7 (s.x 7 - 1#8))
      (mem := withByte s.memRead (s.x 7 - 1#8) (withReg s.x 7 (s.x 7 - 1#8) ra))) ∧
  (∀ (a : Byte) (s : State), AtBytes s [opcodeByte .push, a] → ∃ t, step s = .next t ∧
    Becomes s t (pc := s.pc + 2#8) (x := withReg s.x 7 (s.x 7 - 1#8))
      (mem := withByte s.memRead (s.x 7 - 1#8) (withReg s.x 7 (s.x 7 - 1#8) (a.toNat % 8))))

/-- POP (R142): the byte at SP, then SP + 1; memory is not written. Where the operand is R7 the popped value is what is
incremented (D9; log 9). -/
def Obligations.PopLoadsFromSp : Prop :=
  (∀ (ra : Nat) (s : State), ∃ t, exec (.pop ra) s = .next t ∧
    Becomes s t (pc := s.pc + 2#8) (x := withReg (withReg s.x ra (s.memRead (s.x 7))) 7
      (withReg s.x ra (s.memRead (s.x 7)) 7 + 1#8))) ∧
  (∀ (a : Byte) (s : State), AtBytes s [opcodeByte .pop, a] → ∃ t, step s = .next t ∧
    Becomes s t (pc := s.pc + 2#8) (x := withReg (withReg s.x (a.toNat % 8) (s.memRead (s.x 7))) 7
      (withReg s.x (a.toNat % 8) (s.memRead (s.x 7)) 7 + 1#8)))

/-- CALL (R160): the address of the byte after it is stored at SP - 1, and pc is the register, read after SP moved, which is
seen only where the operand is R7 (D9; log 9). The operand is the one fetched, wherever the return address lands (D8; log 8). -/
def Obligations.CallPushesTheReturnAddress : Prop :=
  (∀ (ra : Nat) (s : State), ∃ t, exec (.call ra) s = .next t ∧
    Becomes s t (pc := withReg s.x 7 (s.x 7 - 1#8) ra) (x := withReg s.x 7 (s.x 7 - 1#8))
      (mem := withByte s.memRead (s.x 7 - 1#8) (s.pc + 2#8))) ∧
  (∀ (a : Byte) (s : State), AtBytes s [opcodeByte .call, a] → ∃ t, step s = .next t ∧
    Becomes s t (pc := withReg s.x 7 (s.x 7 - 1#8) (a.toNat % 8)) (x := withReg s.x 7 (s.x 7 - 1#8))
      (mem := withByte s.memRead (s.x 7 - 1#8) (s.pc + 2#8)))

/-- RET (R161): pc is the byte at SP, then SP + 1; memory is not written. After a CALL, a RET that finds SP and the byte there
as CALL left them continues at the byte after CALL's operand with SP as before the CALL, whatever else the subroutine changed
(90_conflicts.md C5). -/
def Obligations.RetPopsThePcAndUndoesCall : Prop :=
  (∀ s : State, ∃ t, exec .ret s = .next t ∧
    Becomes s t (pc := s.memRead (s.x 7)) (x := withReg s.x 7 (s.x 7 + 1#8))) ∧
  (∀ s : State, AtBytes s [opcodeByte .ret] → ∃ t, step s = .next t ∧
    Becomes s t (pc := s.memRead (s.x 7)) (x := withReg s.x 7 (s.x 7 + 1#8))) ∧
  (∀ (ra : Nat) (s t u : State), exec (.call ra) s = .next t → u.x 7 = t.x 7 →
    u.memRead (t.x 7) = t.memRead (t.x 7) →
    ∃ v, exec .ret u = .next v ∧ Becomes u v (pc := s.pc + 2#8) (x := withReg u.x 7 (s.x 7)))

/-- CMP (R180): exactly one of Equal, GreaterThan and LessThan, by the unsigned values. -/
def Obligations.CmpSetsOneFlag : Prop :=
  (∀ (ra rb : Nat) (s : State), ∃ t, exec (.cmp ra rb) s = .next t ∧
    Becomes s t (pc := s.pc + 3#8)
      (flags := if (s.x ra).toNat = (s.x rb).toNat then .equal
        else if (s.x ra).toNat > (s.x rb).toNat then .greaterThan else .lessThan)) ∧
  (∀ (a b : Byte) (s : State), AtBytes s [opcodeByte .cmp, a, b] → ∃ t, step s = .next t ∧
    Becomes s t (pc := s.pc + 3#8)
      (flags := if (s.x (a.toNat % 8)).toNat = (s.x (b.toNat % 8)).toNat then .equal
        else if (s.x (a.toNat % 8)).toNat > (s.x (b.toNat % 8)).toNat then .greaterThan else .lessThan))

/-- JMP (R201). One whose register holds its own address runs for ever and changes nothing (30_encoding.md R92). -/
def Obligations.JmpGoesToTheRegister : Prop :=
  (∀ (ra : Nat) (s : State), ∃ t, exec (.jmp ra) s = .next t ∧ Becomes s t (pc := s.x ra)) ∧
  (∀ (a : Byte) (s : State), AtBytes s [opcodeByte .jmp, a] → ∃ t, step s = .next t ∧
    Becomes s t (pc := s.x (a.toNat % 8))) ∧
  (∀ (n : Nat) (a : Byte) (s : State), AtBytes s [opcodeByte .jmp, a] → s.x (a.toNat % 8) = s.pc →
    Sys2Proof.core.run n s = .next s)

/-- JEQ (R202): taken exactly when Flags is Equal. -/
def Obligations.JeqJumpsOnEqual : Prop :=
  (∀ (ra : Nat) (s : State), ∃ t, exec (.jeq ra) s = .next t ∧
    Becomes s t (pc := if s.flags = .equal then s.x ra else s.pc + 2#8)) ∧
  (∀ (a : Byte) (s : State), AtBytes s [opcodeByte .jeq, a] → ∃ t, step s = .next t ∧
    Becomes s t (pc := if s.flags = .equal then s.x (a.toNat % 8) else s.pc + 2#8))

/-- JNE (R203): taken exactly when Flags is not Equal. -/
def Obligations.JneJumpsOnNotEqual : Prop :=
  (∀ (ra : Nat) (s : State), ∃ t, exec (.jne ra) s = .next t ∧
    Becomes s t (pc := if s.flags = .equal then s.pc + 2#8 else s.x ra)) ∧
  (∀ (a : Byte) (s : State), AtBytes s [opcodeByte .jne, a] → ∃ t, step s = .next t ∧
    Becomes s t (pc := if s.flags = .equal then s.pc + 2#8 else s.x (a.toNat % 8)))

/-! ### Instructions together -/

/-- The three forms that name R7 where the handler moves SP (R141, R142, R160; the spec's decision D9, log 9): PUSH stores and
CALL jumps to the decremented SP, POP increments the popped value. -/
def Obligations.StackFormsNamingSp : Prop :=
  ∀ s : State,
    (∃ t, exec (.push 7) s = .next t ∧ t.memRead (s.x 7 - 1#8) = s.x 7 - 1#8 ∧ t.x 7 = s.x 7 - 1#8) ∧
    (∃ t, exec (.pop 7) s = .next t ∧ t.x 7 = s.memRead (s.x 7) + 1#8) ∧
    (∃ t, exec (.call 7) s = .next t ∧ t.pc = s.x 7 - 1#8 ∧ t.memRead t.pc = s.pc + 2#8)

/-- PUSH then POP of another register than SP gives that register the pushed value and SP its old one; POP of R7 leaves the
pushed value plus one there (P2 of the source; the forms with R7: D9, log 9). The popped cell keeps its value. -/
def Obligations.PushThenPopRoundTrips : Prop :=
  ∀ (ra rb : Nat) (s : State), ∃ t u, exec (.push ra) s = .next t ∧ exec (.pop rb) t = .next u ∧
    let v := withReg s.x 7 (s.x 7 - 1#8) ra
    Becomes s u (pc := s.pc + 4#8) (mem := withByte s.memRead (s.x 7 - 1#8) v)
      (x := withReg (withReg s.x rb v) 7 (if rb % 8 = 7 then v + 1#8 else s.x 7))

/-- A PUSH that stores on the byte after it changes the instruction the next step fetches, with no delay
(20_memory.md R62, 70_reset_and_hazards.md R255; D17, log 18). -/
def Obligations.NextFetchSeesAPushedByte : Prop :=
  ∀ (a : Byte) (s : State), AtBytes s [opcodeByte .push, a] → s.x 7 - 1#8 = s.pc + 2#8 →
    ∃ t, step s = .next t ∧ t.pc = s.pc + 2#8 ∧
      t.fetch = decode (withReg s.x 7 (s.x 7 - 1#8) (a.toNat % 8)) (s.memRead (s.pc + 3#8)) (s.memRead (s.pc + 4#8))

/-- Every instruction completes in every state: one mode, nothing privileged, no operand that stops it
(60_exceptions.md R228; D19). -/
def Obligations.EveryInstructionCompletes : Prop :=
  ∀ (i : Instr) (s : State), ∃ t, exec i s = .next t

/-- An instruction that does not transfer control advances pc by its declared length, modulo 256 (30_encoding.md R91). -/
def Obligations.StraightLineAdvancesByLength : Prop :=
  ∀ (i : Instr) (s t : State), exec i s = .next t → endsElsewhere i.mnemonic = false →
    t.pc.toNat = (s.pc.toNat + instrLength i.mnemonic) % 256

/-! ### Whole-machine rules -/

/-- HLT is the only instruction that changes the run state, PRN the only one that communicates with the host
(60_exceptions.md R229); no instruction writes the fault record. -/
def Obligations.OnlyHltAndPrnReachTheHost : Prop :=
  ∀ (i : Instr) (s t : State), exec i s = .next t →
    (t.run = if i = .hlt then .halted else s.run) ∧ t.fault = s.fault ∧
    (t.out = match i with
      | .prn ra => s.out ++ [s.x ra]
      | _ => s.out)

/-- A step that changes Flags is a step of a running block at a CMP byte (10_state.md R28). -/
def Obligations.OnlyCmpWritesFlags : Prop :=
  ∀ s t : State, step s = .next t → t.flags ≠ s.flags →
    s.run = .running ∧ s.memRead s.pc = opcodeByte .cmp ∧ t.flags ≠ .clear

/-- Once Flags holds Equal, GreaterThan or LessThan, no run brings Clear back (R28, 90_conflicts.md C6; that Clear exists is
the spec's decision D7, log 7). -/
def Obligations.FlagsNeverClearAgain : Prop :=
  ∀ (n : Nat) (s t : State), Sys2Proof.core.run n s = .next t → s.flags ≠ .clear → t.flags ≠ .clear

/-- The output channel only grows, at its end: what was emitted stays, in order, over any run (R33). -/
def Obligations.OutputIsNeverRewritten : Prop :=
  ∀ (n : Nat) (s t : State), Sys2Proof.core.run n s = .next t → ∃ more, t.out = s.out ++ more ∧ more.length ≤ n

/-- A step that changes a byte of memory is a step at a PUSH or CALL byte, and the byte is the one below SP
(20_memory.md R52, 90_conflicts.md C2). -/
def Obligations.OnlyPushAndCallWriteMemory : Prop :=
  ∀ (s t : State) (a : Byte), step s = .next t → t.memRead a ≠ s.memRead a →
    s.run = .running ∧ (s.memRead s.pc = opcodeByte .push ∨ s.memRead s.pc = opcodeByte .call) ∧ a = s.x 7 - 1#8

/-- An instruction changes no register it does not name as written (10_state.md R23). -/
def Obligations.OnlyNamedRegistersAreWritten : Prop :=
  ∀ (i : Instr) (s t : State) (k : Nat), exec i s = .next t → ¬ Names (regsWritten i) k → t.x k = s.x k

/-- An instruction reads no register it does not name as read (R23): another value there gives the same next state, but for
that register where the instruction does not write it. -/
def Obligations.OnlyNamedRegistersAreRead : Prop :=
  ∀ (i : Instr) (s t : State) (k : Nat) (v : Byte), exec i s = .next t → ¬ Names (regsRead i) k →
    (Names (regsWritten i) k → exec i (s.setX k v) = .next t) ∧
    (¬ Names (regsWritten i) k → exec i (s.setX k v) = .next (t.setX k v))

/-- No instruction's effect depends on what PRN wrote before, on the run state or on the fault record (10_state.md R30, R33):
with other values there, every instruction does the same to registers, pc, Flags and memory. -/
def Obligations.HostVisibleStateIsNeverRead : Prop :=
  ∀ (i : Instr) (s t : State) (out : List Byte) (run : RunState) (fault : Option FaultRecord), exec i s = .next t →
    ∃ u, exec i { s with out := out, run := run, fault := fault } = .next u ∧
      u.regs = t.regs ∧ u.pc = t.pc ∧ u.flags = t.flags ∧ u.mem = t.mem

/-! ### Invariants -/

/-- Every step keeps the invariant: canonical memory, a fault record exactly in Faulted that names pc and the byte there,
which is no opcode, and a halt only at an HLT byte (log 10, log 11). -/
def Obligations.StepKeepsInv : Prop :=
  ∀ s t : State, s.Inv → step s = .next t → t.Inv

/-- The invariant holds at reset. -/
def Obligations.ResetHasInv : Prop := State.reset.Inv

/-- The invariant holds at the start of a run of any image, of any length. -/
def Obligations.BootHasInv : Prop := ∀ image : List Byte, (boot image).Inv

/-- Along any run of any image, a Faulted state has the record of the byte at pc, which is no opcode, and a running or Halted one
has none (60_exceptions.md R226; D11, log 11). -/
def Obligations.ReachableFaultIsPrecise : Prop :=
  ∀ (image : List Byte) (s : State), Reachable image s →
    (s.run = .faulted → s.fault = some ⟨s.memRead s.pc, s.pc⟩ ∧ lookup (s.memRead s.pc) = none) ∧
    (s.run ≠ .faulted → s.fault = none)

/-- A run that ends in Halted was never Faulted and never will be (30_encoding.md R92; D12, log 12). -/
def Obligations.CleanRunsNeverFault : Prop :=
  ∀ s : State, EndsCleanly s → NeverFaults s

/-- Canonical memories that read alike at every address are equal, so equal states are equal data (10_state.md R34). -/
def Obligations.CanonicalMemoryIsUnique : Prop :=
  ∀ m m' : Memory, m.wf = true → m'.wf = true → (∀ a : Byte, m.read a.toNat = m'.read a.toNat) → m = m'

/-! ### Reset and the host -/

/-- The state after reset (10_state.md R38). Decisions of the spec: D3, D4, D5, D6, D7, D11, D15 (log 3 to 7, 11, 15). -/
def Obligations.ResetStateIsR38 : Prop :=
  (∀ k, k < 7 → State.reset.x k = 0#8) ∧ State.reset.x 7 = Config.spInit ∧ State.reset.pc = 0#8 ∧
  State.reset.flags = .clear ∧ State.reset.run = .running ∧ State.reset.fault = none ∧ State.reset.out = [] ∧
  ∀ a, State.reset.memRead a = 0#8

/-- Loading writes byte i of the image to cell i mod 256, a later byte over an earlier one of the same cell, leaves every
other cell 0 (D5, log 5) and touches nothing but memory (70_reset_and_hazards.md R250, R251; D13, log 13). -/
def Obligations.BootLoadsTheImage : Prop :=
  ∀ image : List Byte,
    (∀ (i : Nat) (h : i < image.length), (∀ j, i < j → j < image.length → j % 256 ≠ i % 256) →
      (boot image).memRead (BitVec.ofNat 8 i) = image[i]) ∧
    (∀ a : Byte, (∀ i, i < image.length → i % 256 ≠ a.toNat) → (boot image).memRead a = 0#8) ∧
    Becomes State.reset (boot image) (mem := (boot image).memRead)

/-- The text of an image, one base-2 literal a line, is read back as that image, so a run of it starts (R250; the
characters taken as white space: log 23). -/
def Obligations.LoaderReadsBackTheProgramText : Prop :=
  ∀ image : List Byte, parseProgram (programText image) = some image ∧
    launchText (some (programText image)) = .started (boot image)

/-- The host renders a byte as its base-10 digits, with no leading zero and no sign, and a newline (10_state.md R37, decision
D20; log 20). -/
def Obligations.RenderedByteIsItsDecimal : Prop :=
  ∀ v : Byte, let digits := (renderByte v).dropLast
    renderByte v = digits ++ ['\n'] ∧ digits ≠ [] ∧ (∀ c ∈ digits, '0' ≤ c ∧ c ≤ '9') ∧
    digits.foldl (fun n c => 10 * n + (c.toNat - 48)) 0 = v.toNat ∧ (digits.head? = some '0' → digits = ['0'])

/-- The result codes (60_exceptions.md R230): 0 for a Halted run, distinct nonzero codes for a Faulted one and for a failed
load, nothing for a run that has not ended. -/
def Obligations.ResultCodesAreDistinct : Prop :=
  Config.exitUnknownOpcode ≠ 0 ∧ Config.exitLoadFailure ≠ 0 ∧ Config.exitUnknownOpcode ≠ Config.exitLoadFailure ∧
  (∀ (s : State) (n : Nat),
    ((runFor n s).run = .halted → (Launch.started s).resultCode n = some 0) ∧
    ((runFor n s).run = .faulted → (Launch.started s).resultCode n = some Config.exitUnknownOpcode) ∧
    ((runFor n s).run = .running → (Launch.started s).resultCode n = none)) ∧
  (∀ n, (launchText none).resultCode n = some Config.exitLoadFailure) ∧
  (∀ (text : List Char) (n : Nat), parseProgram text = none →
    (launchText (some text)).resultCode n = some Config.exitLoadFailure)

/-- A result code, once reported, never changes: a run that has ended stays ended (30_encoding.md R92, R93; log 12). -/
def Obligations.ResultCodeIsFinal : Prop :=
  ∀ (l : Launch) (n m c : Nat), l.resultCode n = some c → l.resultCode (n + m) = some c
end

