-- ==== Sys2Proof/Laws/Alu.lean ====
section
/-! SUPPORT. What the ALU answers, in numbers (42_arithmetic.md R122, 45_compare.md R180). -/

namespace Sys2Proof.Machine

/-- The sum modulo 256 (R120). -/
theorem aluAdd_eq (a b : Byte) : aluAdd a b = BitVec.ofNat 8 ((a.toNat + b.toNat) % 256) := by
  apply BitVec.eq_of_toNat_eq
  simp [aluAdd]

/-- The product modulo 256 (R121). -/
theorem aluMul_eq (a b : Byte) : aluMul a b = BitVec.ofNat 8 ((a.toNat * b.toNat) % 256) := by
  apply BitVec.eq_of_toNat_eq
  simp [aluMul]

/-- A comparison never leaves the flags clear (R180). -/
theorem compareFlags_ne_clear (a b : Byte) : compareFlags a b ≠ .clear := by
  unfold compareFlags
  split
  · simp
  · split <;> simp

/-- The flag value by the unsigned numbers (R180). -/
theorem compareFlags_eq (a b : Byte) : compareFlags a b =
    if a.toNat = b.toNat then .equal else if a.toNat > b.toNat then .greaterThan else .lessThan := by
  simp [compareFlags, BitVec.toNat_inj]

end Sys2Proof.Machine
end

