-- ==== Sys2Proof/Laws/Decode.lean ====
section
/-! SUPPORT. What the dispatcher and the decoder do (30_encoding.md R71, R74, R81). -/

namespace Sys2Proof

/-- Each opcode byte of the map has its handler: no two rows share a byte (R74). -/
@[simp] theorem lookup_opcodeByte (m : Mnemonic) : lookup (opcodeByte m) = some m := by
  cases m <;> decide

/-- A byte that has a handler is that mnemonic's opcode byte (R81). -/
theorem opcodeByte_of_lookup {op : Byte} {m : Mnemonic} (h : lookup op = some m) : opcodeByte m = op := by
  have := List.find?_some h
  simpa using this

/-- A well-formed register number survives its operand byte (R71, R77). -/
theorem regSelect_regByte {r : Nat} (h : regOk r = true) : regSelect (regByte r) = r := by
  simp only [regOk, decide_eq_true_eq] at h
  simp only [regSelect, regByte, BitVec.toNat_ofNat]
  omega

/-- An operand byte selects one of R0 to R7 (R77). -/
theorem regOk_regSelect (r : Byte) : regOk (regSelect r) = true := by
  exact decide_eq_true (Nat.mod_lt _ (by decide))

/-- The decoder on a known opcode byte (R81). -/
@[simp] theorem decode_opcodeByte (m : Mnemonic) (a b : Byte) : decode (opcodeByte m) a b = .ok (assemble m a b) := by
  simp [decode]

/-- What the decoder can answer (R78, R81). -/
theorem decode_cases (op a b : Byte) :
    (∃ m, lookup op = some m ∧ decode op a b = .ok (assemble m a b)) ∨
    (lookup op = none ∧ decode op a b = .error ⟨op⟩) := by
  unfold decode
  cases h : lookup op <;> simp

end Sys2Proof
end

