-- ==== Sys2Proof/Laws/State.lean ====
section
/-! SUPPORT. One lemma per field per update of State, so that no later proof unfolds a record update. -/

namespace Sys2Proof.Machine

variable (s : State)

@[simp] theorem State.setX_pc (i : Nat) (v : Byte) : (s.setX i v).pc = s.pc := rfl
@[simp] theorem State.setX_flags (i : Nat) (v : Byte) : (s.setX i v).flags = s.flags := rfl
@[simp] theorem State.setX_run (i : Nat) (v : Byte) : (s.setX i v).run = s.run := rfl
@[simp] theorem State.setX_fault (i : Nat) (v : Byte) : (s.setX i v).fault = s.fault := rfl
@[simp] theorem State.setX_mem (i : Nat) (v : Byte) : (s.setX i v).mem = s.mem := rfl
@[simp] theorem State.setX_out (i : Nat) (v : Byte) : (s.setX i v).out = s.out := rfl
@[simp] theorem State.setX_memRead (i : Nat) (v a : Byte) : (s.setX i v).memRead a = s.memRead a := rfl

@[simp] theorem State.setSp_pc (v : Byte) : (s.setSp v).pc = s.pc := rfl
@[simp] theorem State.setSp_flags (v : Byte) : (s.setSp v).flags = s.flags := rfl
@[simp] theorem State.setSp_run (v : Byte) : (s.setSp v).run = s.run := rfl
@[simp] theorem State.setSp_fault (v : Byte) : (s.setSp v).fault = s.fault := rfl
@[simp] theorem State.setSp_mem (v : Byte) : (s.setSp v).mem = s.mem := rfl
@[simp] theorem State.setSp_out (v : Byte) : (s.setSp v).out = s.out := rfl
@[simp] theorem State.setSp_memRead (v a : Byte) : (s.setSp v).memRead a = s.memRead a := rfl

@[simp] theorem State.decSp_pc : s.decSp.pc = s.pc := rfl
@[simp] theorem State.decSp_flags : s.decSp.flags = s.flags := rfl
@[simp] theorem State.decSp_run : s.decSp.run = s.run := rfl
@[simp] theorem State.decSp_fault : s.decSp.fault = s.fault := rfl
@[simp] theorem State.decSp_mem : s.decSp.mem = s.mem := rfl
@[simp] theorem State.decSp_out : s.decSp.out = s.out := rfl
@[simp] theorem State.decSp_memRead (a : Byte) : s.decSp.memRead a = s.memRead a := rfl

@[simp] theorem State.incSp_pc : s.incSp.pc = s.pc := rfl
@[simp] theorem State.incSp_flags : s.incSp.flags = s.flags := rfl
@[simp] theorem State.incSp_run : s.incSp.run = s.run := rfl
@[simp] theorem State.incSp_fault : s.incSp.fault = s.fault := rfl
@[simp] theorem State.incSp_mem : s.incSp.mem = s.mem := rfl
@[simp] theorem State.incSp_out : s.incSp.out = s.out := rfl
@[simp] theorem State.incSp_memRead (a : Byte) : s.incSp.memRead a = s.memRead a := rfl

@[simp] theorem State.setPc_pc (t : Byte) : (s.setPc t).pc = t := rfl
@[simp] theorem State.setPc_regs (t : Byte) : (s.setPc t).regs = s.regs := rfl
@[simp] theorem State.setPc_flags (t : Byte) : (s.setPc t).flags = s.flags := rfl
@[simp] theorem State.setPc_run (t : Byte) : (s.setPc t).run = s.run := rfl
@[simp] theorem State.setPc_fault (t : Byte) : (s.setPc t).fault = s.fault := rfl
@[simp] theorem State.setPc_mem (t : Byte) : (s.setPc t).mem = s.mem := rfl
@[simp] theorem State.setPc_out (t : Byte) : (s.setPc t).out = s.out := rfl
@[simp] theorem State.setPc_x (t : Byte) (k : Nat) : (s.setPc t).x k = s.x k := rfl
@[simp] theorem State.setPc_sp (t : Byte) : (s.setPc t).sp = s.sp := rfl
@[simp] theorem State.setPc_memRead (t a : Byte) : (s.setPc t).memRead a = s.memRead a := rfl

@[simp] theorem State.advance_pc (m : Mnemonic) :
    (s.advance m).pc = s.pc + BitVec.ofNat 8 (instrLength m) := rfl
@[simp] theorem State.advance_regs (m : Mnemonic) : (s.advance m).regs = s.regs := rfl
@[simp] theorem State.advance_flags (m : Mnemonic) : (s.advance m).flags = s.flags := rfl
@[simp] theorem State.advance_run (m : Mnemonic) : (s.advance m).run = s.run := rfl
@[simp] theorem State.advance_fault (m : Mnemonic) : (s.advance m).fault = s.fault := rfl
@[simp] theorem State.advance_mem (m : Mnemonic) : (s.advance m).mem = s.mem := rfl
@[simp] theorem State.advance_out (m : Mnemonic) : (s.advance m).out = s.out := rfl
@[simp] theorem State.advance_x (m : Mnemonic) (k : Nat) : (s.advance m).x k = s.x k := rfl
@[simp] theorem State.advance_sp (m : Mnemonic) : (s.advance m).sp = s.sp := rfl
@[simp] theorem State.advance_memRead (m : Mnemonic) (a : Byte) : (s.advance m).memRead a = s.memRead a := rfl

@[simp] theorem State.setFlags_pc (f : Flags) : (s.setFlags f).pc = s.pc := rfl
@[simp] theorem State.setFlags_regs (f : Flags) : (s.setFlags f).regs = s.regs := rfl
@[simp] theorem State.setFlags_flags (f : Flags) : (s.setFlags f).flags = f := rfl
@[simp] theorem State.setFlags_run (f : Flags) : (s.setFlags f).run = s.run := rfl
@[simp] theorem State.setFlags_fault (f : Flags) : (s.setFlags f).fault = s.fault := rfl
@[simp] theorem State.setFlags_mem (f : Flags) : (s.setFlags f).mem = s.mem := rfl
@[simp] theorem State.setFlags_out (f : Flags) : (s.setFlags f).out = s.out := rfl
@[simp] theorem State.setFlags_x (f : Flags) (k : Nat) : (s.setFlags f).x k = s.x k := rfl
@[simp] theorem State.setFlags_memRead (f : Flags) (a : Byte) : (s.setFlags f).memRead a = s.memRead a := rfl

@[simp] theorem State.memWrite_pc (a v : Byte) : (s.memWrite a v).pc = s.pc := rfl
@[simp] theorem State.memWrite_regs (a v : Byte) : (s.memWrite a v).regs = s.regs := rfl
@[simp] theorem State.memWrite_flags (a v : Byte) : (s.memWrite a v).flags = s.flags := rfl
@[simp] theorem State.memWrite_run (a v : Byte) : (s.memWrite a v).run = s.run := rfl
@[simp] theorem State.memWrite_fault (a v : Byte) : (s.memWrite a v).fault = s.fault := rfl
@[simp] theorem State.memWrite_mem (a v : Byte) : (s.memWrite a v).mem = s.mem.write a.toNat v := rfl
@[simp] theorem State.memWrite_out (a v : Byte) : (s.memWrite a v).out = s.out := rfl
@[simp] theorem State.memWrite_x (a v : Byte) (k : Nat) : (s.memWrite a v).x k = s.x k := rfl
@[simp] theorem State.memWrite_sp (a v : Byte) : (s.memWrite a v).sp = s.sp := rfl

@[simp] theorem State.emit_pc (v : Byte) : (s.emit v).pc = s.pc := rfl
@[simp] theorem State.emit_regs (v : Byte) : (s.emit v).regs = s.regs := rfl
@[simp] theorem State.emit_flags (v : Byte) : (s.emit v).flags = s.flags := rfl
@[simp] theorem State.emit_run (v : Byte) : (s.emit v).run = s.run := rfl
@[simp] theorem State.emit_fault (v : Byte) : (s.emit v).fault = s.fault := rfl
@[simp] theorem State.emit_mem (v : Byte) : (s.emit v).mem = s.mem := rfl
@[simp] theorem State.emit_out (v : Byte) : (s.emit v).out = s.out ++ [v] := rfl
@[simp] theorem State.emit_x (v : Byte) (k : Nat) : (s.emit v).x k = s.x k := rfl
@[simp] theorem State.emit_memRead (v a : Byte) : (s.emit v).memRead a = s.memRead a := rfl

@[simp] theorem State.halt_pc : s.halt.pc = s.pc := rfl
@[simp] theorem State.halt_regs : s.halt.regs = s.regs := rfl
@[simp] theorem State.halt_flags : s.halt.flags = s.flags := rfl
@[simp] theorem State.halt_run : s.halt.run = .halted := rfl
@[simp] theorem State.halt_fault : s.halt.fault = s.fault := rfl
@[simp] theorem State.halt_mem : s.halt.mem = s.mem := rfl
@[simp] theorem State.halt_out : s.halt.out = s.out := rfl
@[simp] theorem State.halt_x (k : Nat) : s.halt.x k = s.x k := rfl
@[simp] theorem State.halt_memRead (a : Byte) : s.halt.memRead a = s.memRead a := rfl

@[simp] theorem State.raise_pc (e : UnknownOpcode) : (s.raiseUnknownOpcode e).pc = s.pc := rfl
@[simp] theorem State.raise_regs (e : UnknownOpcode) : (s.raiseUnknownOpcode e).regs = s.regs := rfl
@[simp] theorem State.raise_flags (e : UnknownOpcode) : (s.raiseUnknownOpcode e).flags = s.flags := rfl
@[simp] theorem State.raise_run (e : UnknownOpcode) : (s.raiseUnknownOpcode e).run = .faulted := rfl
@[simp] theorem State.raise_fault (e : UnknownOpcode) :
    (s.raiseUnknownOpcode e).fault = some ⟨e.opcode, s.pc⟩ := rfl
@[simp] theorem State.raise_mem (e : UnknownOpcode) : (s.raiseUnknownOpcode e).mem = s.mem := rfl
@[simp] theorem State.raise_out (e : UnknownOpcode) : (s.raiseUnknownOpcode e).out = s.out := rfl
@[simp] theorem State.raise_x (e : UnknownOpcode) (k : Nat) : (s.raiseUnknownOpcode e).x k = s.x k := rfl
@[simp] theorem State.raise_memRead (e : UnknownOpcode) (a : Byte) :
    (s.raiseUnknownOpcode e).memRead a = s.memRead a := rfl

end Sys2Proof.Machine
end

