-- ==== Sys2Proof/Laws/Memory.lean ====
section
/-! SUPPORT. What memory does (20_memory.md R51, R60): a read gives the last write of that address and no write reaches
another one, in every list whatever its form, and every operation keeps the canonical form. -/

namespace Sys2Proof.Machine

/-- Erasing one address leaves every other one. -/
theorem Memory.read_erase (m : Memory) (a b : Nat) :
    (m.erase a).read b = if b = a then Config.unlistedByte else m.read b := by
  induction m with
  | nil => simp [Memory.erase, Memory.read]
  | cons c rest ih =>
    obtain ⟨k, v⟩ := c
    simp only [Memory.erase]
    split
    · next h =>
      subst h
      rw [ih]
      by_cases hb : b = k
      · simp [hb]
      · simp [Memory.read, hb, Ne.symm hb]
    · next h =>
      simp only [Memory.read, ih]
      by_cases hk : k = b
      · subst hk; simp [h]
      · simp [hk]

/-- An entry put into a list without that address is what is read there, and nothing else changes. -/
theorem Memory.read_insert (m : Memory) (a b : Nat) (v : Byte) (h : ∀ c ∈ m, c.1 ≠ a) :
    (m.insert a v).read b = if b = a then v else m.read b := by
  induction m with
  | nil => simp [Memory.insert, Memory.read, eq_comm]
  | cons c rest ih =>
    obtain ⟨k, w⟩ := c
    have hk : k ≠ a := h (k, w) (by simp)
    have ih := ih fun c hc => h c (by simp [hc])
    simp only [Memory.insert]
    split
    · simp [Memory.read, eq_comm]
    · simp only [Memory.read, ih]
      by_cases hkb : k = b
      · subst hkb; simp [hk]
      · simp [hkb]

/-- The erased address is in no entry. -/
theorem Memory.erase_no_entry (m : Memory) (a : Nat) : ∀ c ∈ m.erase a, c.1 ≠ a := by
  induction m with
  | nil => simp [Memory.erase]
  | cons c rest ih =>
    obtain ⟨k, v⟩ := c
    simp only [Memory.erase]
    split
    · exact ih
    · next h => simp only [List.mem_cons, forall_eq_or_imp]; exact ⟨h, ih⟩

/-- A read after a write, in any list (20_memory.md R60). -/
theorem Memory.read_write (m : Memory) (a b : Nat) (v : Byte) :
    (m.write a v).read b = if b = a then v else m.read b := by
  unfold Memory.write
  split
  · next h => rw [Memory.read_erase, h]
  · rw [Memory.read_insert _ _ _ _ (m.erase_no_entry a), Memory.read_erase]
    split <;> rfl

/-- A canonical form from an address on is one from any lower address on. -/
theorem Memory.wfFrom_mono {lo lo' : Nat} (h : lo ≤ lo') {m : Memory} (hm : m.wfFrom lo' = true) :
    m.wfFrom lo = true := by
  cases m with
  | nil => rfl
  | cons c rest =>
    obtain ⟨k, v⟩ := c
    simp only [Memory.wfFrom, Bool.and_eq_true, decide_eq_true_eq] at hm ⊢
    exact ⟨⟨⟨by omega, hm.1.1.2⟩, hm.1.2⟩, hm.2⟩

theorem Memory.erase_wfFrom (a : Nat) : ∀ (m : Memory) (lo : Nat), m.wfFrom lo = true →
    (m.erase a).wfFrom lo = true := by
  intro m
  induction m with
  | nil => intro lo h; exact h
  | cons c rest ih =>
    intro lo h
    obtain ⟨k, v⟩ := c
    simp only [Memory.wfFrom, Bool.and_eq_true, decide_eq_true_eq] at h
    simp only [Memory.erase]
    split
    · exact ih lo (Memory.wfFrom_mono (by omega) h.2)
    · simp only [Memory.wfFrom, Bool.and_eq_true, decide_eq_true_eq]
      exact ⟨h.1, ih _ h.2⟩

theorem Memory.insert_wfFrom (a : Nat) (v : Byte) (ha : a < 256) (hv : v ≠ Config.unlistedByte) :
    ∀ (m : Memory) (lo : Nat), lo ≤ a → (∀ c ∈ m, c.1 ≠ a) → m.wfFrom lo = true →
    (m.insert a v).wfFrom lo = true := by
  intro m
  induction m with
  | nil => intro lo hlo _ _; simp [Memory.insert, Memory.wfFrom, hlo, ha, hv]
  | cons c rest ih =>
    intro lo hlo hne h
    obtain ⟨k, w⟩ := c
    have hk : k ≠ a := hne (k, w) (by simp)
    simp only [Memory.wfFrom, Bool.and_eq_true, decide_eq_true_eq] at h
    simp only [Memory.insert]
    split
    · simp only [Memory.wfFrom, Bool.and_eq_true, decide_eq_true_eq]
      exact ⟨⟨⟨hlo, ha⟩, hv⟩, ⟨⟨by omega, h.1.1.2⟩, h.1.2⟩, h.2⟩
    · simp only [Memory.wfFrom, Bool.and_eq_true, decide_eq_true_eq]
      exact ⟨h.1, ih (k + 1) (by omega) (fun c hc => hne c (by simp [hc])) h.2⟩

/-- A write of an address below 256 keeps the canonical form. -/
theorem Memory.write_wf {m : Memory} {a : Nat} (v : Byte) (ha : a < 256) (h : m.wf = true) :
    (m.write a v).wf = true := by
  unfold Memory.write
  split
  · exact Memory.erase_wfFrom a m 0 h
  · next hv =>
    exact Memory.insert_wfFrom a v ha hv _ 0 (Nat.zero_le a) (m.erase_no_entry a) (Memory.erase_wfFrom a m 0 h)

/-- The memory of reset is canonical. -/
theorem State.reset_mem_wf : State.reset.mem.wf = true := rfl

/-- A read after a write (20_memory.md R60). -/
@[simp] theorem State.memWrite_memRead (s : State) (a v b : Byte) :
    (s.memWrite a v).memRead b = if b = a then v else s.memRead b := by
  simp only [State.memRead, State.memWrite_mem, Memory.read_write, BitVec.toNat_inj]

/-- The machine's write keeps the canonical form, whatever the address (R51). -/
theorem State.memWrite_wf (s : State) (a v : Byte) (h : s.mem.wf = true) : (s.memWrite a v).mem.wf = true :=
  Memory.write_wf v a.isLt h

end Sys2Proof.Machine
end

