-- ==== Sys2Proof/Laws/PerInstr.lean ====
section
/-! SUPPORT. Facts of every instruction as syntax, one lemma per constructor: an encoding is as long as its opcode declares
(30_encoding.md R73), and it begins with the opcode byte of its mnemonic (R70). -/

namespace Sys2Proof.Laws

/-- The encoding has the declared length (R73). -/
def EncodeLength.Statement (i : Instr) : Prop := (encode i).length = instrLength i.mnemonic

theorem EncodeLength.hlt : EncodeLength.Statement .hlt := rfl
theorem EncodeLength.ldi (ra : Nat) (imm : Byte) : EncodeLength.Statement (.ldi ra imm) := rfl
theorem EncodeLength.prn (ra : Nat) : EncodeLength.Statement (.prn ra) := rfl
theorem EncodeLength.add (ra rb : Nat) : EncodeLength.Statement (.add ra rb) := rfl
theorem EncodeLength.mul (ra rb : Nat) : EncodeLength.Statement (.mul ra rb) := rfl
theorem EncodeLength.push (ra : Nat) : EncodeLength.Statement (.push ra) := rfl
theorem EncodeLength.pop (ra : Nat) : EncodeLength.Statement (.pop ra) := rfl
theorem EncodeLength.call (ra : Nat) : EncodeLength.Statement (.call ra) := rfl
theorem EncodeLength.ret : EncodeLength.Statement .ret := rfl
theorem EncodeLength.cmp (ra rb : Nat) : EncodeLength.Statement (.cmp ra rb) := rfl
theorem EncodeLength.jmp (ra : Nat) : EncodeLength.Statement (.jmp ra) := rfl
theorem EncodeLength.jeq (ra : Nat) : EncodeLength.Statement (.jeq ra) := rfl
theorem EncodeLength.jne (ra : Nat) : EncodeLength.Statement (.jne ra) := rfl

/-- The encoding begins with the opcode byte of the mnemonic (R70). -/
def EncodeOpcode.Statement (i : Instr) : Prop := (encode i).head? = some (opcodeByte i.mnemonic)

theorem EncodeOpcode.hlt : EncodeOpcode.Statement .hlt := rfl
theorem EncodeOpcode.ldi (ra : Nat) (imm : Byte) : EncodeOpcode.Statement (.ldi ra imm) := rfl
theorem EncodeOpcode.prn (ra : Nat) : EncodeOpcode.Statement (.prn ra) := rfl
theorem EncodeOpcode.add (ra rb : Nat) : EncodeOpcode.Statement (.add ra rb) := rfl
theorem EncodeOpcode.mul (ra rb : Nat) : EncodeOpcode.Statement (.mul ra rb) := rfl
theorem EncodeOpcode.push (ra : Nat) : EncodeOpcode.Statement (.push ra) := rfl
theorem EncodeOpcode.pop (ra : Nat) : EncodeOpcode.Statement (.pop ra) := rfl
theorem EncodeOpcode.call (ra : Nat) : EncodeOpcode.Statement (.call ra) := rfl
theorem EncodeOpcode.ret : EncodeOpcode.Statement .ret := rfl
theorem EncodeOpcode.cmp (ra rb : Nat) : EncodeOpcode.Statement (.cmp ra rb) := rfl
theorem EncodeOpcode.jmp (ra : Nat) : EncodeOpcode.Statement (.jmp ra) := rfl
theorem EncodeOpcode.jeq (ra : Nat) : EncodeOpcode.Statement (.jeq ra) := rfl
theorem EncodeOpcode.jne (ra : Nat) : EncodeOpcode.Statement (.jne ra) := rfl

end Sys2Proof.Laws
end

