-- ==== Sys2Proof/Laws/Registers.lean ====
section
/-! SUPPORT. What the register file does (10_state.md R20 to R22): a read after a write, and writes of registers. -/

namespace Sys2Proof.Machine

variable (s : State)

/-- A register index counts modulo 8 (R21). -/
theorem State.x_mod (k : Nat) : s.x (k % 8) = s.x k := by
  simp [State.x]

/-- Two indexes of the same register read the same value. -/
theorem State.x_congr {j k : Nat} (h : j % 8 = k % 8) : s.x j = s.x k := by
  simp [State.x, h]

/-- What a write of a register does to every register: it sets that one and no other (R21, R25). -/
@[simp] theorem State.setX_x (i k : Nat) (v : Byte) :
    (s.setX i v).x k = if k % 8 = i % 8 then v else s.x k := by
  simp [State.x, State.setX, Vector.getElem_set, eq_comm]

/-- The same for a write of SP. -/
@[simp] theorem State.setSp_x (k : Nat) (v : Byte) :
    (s.setSp v).x k = if k % 8 = 7 then v else s.x k :=
  State.setX_x s spIndex k v

@[simp] theorem State.sp_eq : s.sp = s.x 7 := rfl

@[simp] theorem State.decSp_x (k : Nat) : s.decSp.x k = if k % 8 = 7 then s.x 7 - 1#8 else s.x k :=
  State.setSp_x s k _

@[simp] theorem State.incSp_x (k : Nat) : s.incSp.x k = if k % 8 = 7 then s.x 7 + 1#8 else s.x k :=
  State.setSp_x s k _

/-- A second write of the same register wins. -/
theorem State.setX_setX_same {i j : Nat} (h : i % 8 = j % 8) (v w : Byte) :
    (s.setX i v).setX j w = s.setX j w := by
  simp [State.setX, h]

/-- Writes of two registers commute. -/
theorem State.setX_setX_comm {i j : Nat} (h : i % 8 ≠ j % 8) (v w : Byte) :
    (s.setX i v).setX j w = (s.setX j w).setX i v := by
  simp only [State.setX]
  rw [Vector.set_comm _ _ h]

end Sys2Proof.Machine
end

