-- ==== Sys2Proof/Laws/Step.lean ====
section
/-! SUPPORT. What a fetch and a step can do (30_encoding.md R90, R93), said once. -/

namespace Sys2Proof.Machine

/-- A fetch looks only at the opcode byte to tell an instruction from an unknown opcode (R81). -/
theorem State.fetch_cases (s : State) :
    (∃ m, lookup (s.memRead s.pc) = some m ∧
      s.fetch = .ok (assemble m (s.memRead (s.pc + 1#8)) (s.memRead (s.pc + 2#8)))) ∨
    (lookup (s.memRead s.pc) = none ∧ s.fetch = .error ⟨s.memRead s.pc⟩) :=
  decode_cases _ _ _

/-- Everything a step can do: run the handler of the instruction fetched, take UnknownOpcode, or stay stopped. -/
theorem step_cases {s t : State} (h : step s = .next t) :
    (s.run = .running ∧ ∃ i, s.fetch = .ok i ∧ exec i s = .next t) ∨
    (s.run = .running ∧ lookup (s.memRead s.pc) = none ∧ t = s.raiseUnknownOpcode ⟨s.memRead s.pc⟩) ∨
    (s.run ≠ .running ∧ t = s) := by
  unfold step at h
  split at h
  · next hr =>
    obtain ⟨m, _, hf⟩ | ⟨hl, hf⟩ := s.fetch_cases
    · rw [hf] at h
      exact .inl ⟨hr, _, hf, h⟩
    · rw [hf] at h
      simp only [takeUnknownOpcode, Host.Outcome.next.injEq] at h
      exact .inr (.inl ⟨hr, hl, h.symm⟩)
  · next hr =>
    simp only [stayStopped, Host.Outcome.next.injEq] at h
    exact .inr (.inr ⟨by simp [hr], h.symm⟩)
  · next hr =>
    simp only [stayStopped, Host.Outcome.next.injEq] at h
    exact .inr (.inr ⟨by simp [hr], h.symm⟩)

/-- The loader changes memory and nothing else (10_state.md R37). -/
theorem State.loadFrom_regs (image : List Byte) : ∀ (s : State) (i : Nat), (s.loadFrom i image).regs = s.regs := by
  induction image with
  | nil => intros; rfl
  | cons b rest ih => intro s i; simp only [State.loadFrom, ih, State.memWrite_regs]

/-- The loader keeps the canonical form. -/
theorem State.loadFrom_wf (image : List Byte) : ∀ (s : State) (i : Nat), s.mem.wf = true →
    (s.loadFrom i image).mem.wf = true := by
  induction image with
  | nil => intro s i h; exact h
  | cons b rest ih => intro s i h; exact ih _ _ (s.memWrite_wf _ _ h)

end Sys2Proof.Machine
end

