-- ==== Sys2Proof/Tests/Slice0.lean ====
section
/-! SUPPORT. The model's own tests. Expected results are from spec/95_test_vectors.md (named V<n>, P<n> or S<n> there) or from
the examples and corner cases of the rules; the words of the decode tests are written out from the encodings of
spec/opcode_table.json. The witnesses meet the hypotheses of the statements. -/

open Sys2Proof Sys2Proof.Machine Sys2Proof.Statements

namespace Sys2Proof.Tests

/-- The reset state with bytes in memory from `pc` on, and that pc. -/
def placed (pc : Byte) (bytes : List Byte) : State :=
  { State.reset.loadFrom pc.toNat bytes with pc := pc }

/-- A state with some registers set. -/
def withRegs (s : State) : List (Nat × Byte) → State
  | [] => s
  | (r, v) :: rest => withRegs (s.setX r v) rest

/-- Whether an outcome is a next state of which something holds. -/
def nextHas (o : Host.Outcome State Fault Refusal) (f : State → Bool) : Bool :=
  match o with
  | .next t => f t
  | .fault _ => false
  | .refused _ => false

/-! ### Well-formedness -/

theorem test_operand_a_above_r7_is_refused :
    (Instr.ldi 8 0#8).wellFormed = false ∧ (Instr.prn 8).wellFormed = false ∧ (Instr.add 8 0).wellFormed = false ∧
    (Instr.mul 9 0).wellFormed = false ∧ (Instr.push 8).wellFormed = false ∧ (Instr.pop 255).wellFormed = false ∧
    (Instr.call 8).wellFormed = false ∧ (Instr.cmp 8 0).wellFormed = false ∧ (Instr.jmp 8).wellFormed = false ∧
    (Instr.jeq 8).wellFormed = false ∧ (Instr.jne 16).wellFormed = false := by decide

theorem test_operand_b_above_r7_is_refused :
    (Instr.add 0 8).wellFormed = false ∧ (Instr.mul 7 8).wellFormed = false ∧ (Instr.cmp 0 8).wellFormed = false := by
  decide

theorem test_every_register_is_accepted : (Instr.add 0 7).wellFormed = true ∧ (Instr.push 7).wellFormed = true := by decide

/-! ### Decoding words written out from the encodings -/

theorem test_decode_hlt : decodeTableWord 8 0b00000001 = some .hlt := by decide
theorem test_decode_ldi : decodeTableWord 24 0b00001000_00000101_10000010 = some (.ldi 5 8) := by decide
theorem test_decode_prn : decodeTableWord 16 0b00000110_01000111 = some (.prn 6) := by decide
theorem test_decode_add : decodeTableWord 24 0b00000010_00000001_10100000 = some (.add 1 2) := by decide
theorem test_decode_mul : decodeTableWord 24 0b00000100_00000011_10100010 = some (.mul 3 4) := by decide
theorem test_decode_push : decodeTableWord 16 0b00000111_01000101 = some (.push 7) := by decide
theorem test_decode_pop : decodeTableWord 16 0b00000001_01000110 = some (.pop 1) := by decide
theorem test_decode_call : decodeTableWord 16 0b00000010_01010000 = some (.call 2) := by decide
theorem test_decode_ret : decodeTableWord 8 0b00010001 = some .ret := by decide
theorem test_decode_cmp : decodeTableWord 24 0b00000110_00000101_10100111 = some (.cmp 5 6) := by decide
theorem test_decode_jmp : decodeTableWord 16 0b00000011_01010100 = some (.jmp 3) := by decide
theorem test_decode_jeq : decodeTableWord 16 0b00000100_01010101 = some (.jeq 4) := by decide
theorem test_decode_jne : decodeTableWord 16 0b00000101_01010110 = some (.jne 5) := by decide
/-- V5, V6: the bits above [2:0] of a register operand are ignored. -/
theorem test_decode_ignores_high_operand_bits :
    decodeTableWord 24 0x330A82 = some (.ldi 2 0x33#8) ∧ decodeTableWord 24 0x33F882 = some (.ldi 0 0x33#8) := by decide
/-- V1 to V4: no opcode. -/
theorem test_decode_rejects : decodeTableWord 8 0x00 = none ∧ decodeTableWord 8 0x02 = none ∧
    decodeTableWord 8 0xFF = none ∧ decodeTableWord 24 0x0100A1 = none := by decide
theorem test_encode_bytes : encode (.ldi 0 8#8) = [0x82#8, 0x00#8, 0x08#8] ∧ encode (.cmp 0 1) = [0xA7#8, 0x00#8, 0x01#8] ∧
    encode .ret = [0x11#8] ∧ encode (.jne 3) = [0x56#8, 0x03#8] := by decide
theorem test_stream_errors_by_name :
    decodeBytes [] = .error .endOfBytes ∧ decodeBytes [0xA1#8] = .error (.unknownOpcode 0xA1#8) ∧
    decodeBytes [0x82#8, 0x00#8] = .error (.missingOperand .ldi) := ⟨rfl, rfl, rfl⟩

/-! ### One step of each instruction -/

/-- V12: LDI across the wrap. -/
theorem test_ldi_wraps : nextHas (step (placed 0xFE#8 [0x82#8, 0x01#8, 0x2C#8]))
    (fun t => t.x 1 = 0x2C#8 ∧ t.pc = 0x01#8) = true := by decide
/-- V11: LDI of SP. -/
theorem test_ldi_sp : nextHas (step (placed 0#8 [0x82#8, 0x07#8, 0x80#8]))
    (fun t => t.sp = 0x80#8 ∧ t.pc = 3#8) = true := by decide
/-- V15: PRN of SP. -/
theorem test_prn_sp : nextHas (step (placed 0x20#8 [0x47#8, 0x07#8]))
    (fun t => t.out = [244#8] ∧ t.pc = 0x22#8) = true := by decide
/-- V16: HLT keeps pc. -/
theorem test_hlt : nextHas (step (placed 0x30#8 [0x01#8]))
    (fun t => t.run = .halted ∧ t.pc = 0x30#8 ∧ t.fault = none) = true := by decide
/-- V20: ADD wraps, and the second operand is kept. -/
theorem test_add_wraps : nextHas (step (withRegs (placed 6#8 [0xA0#8, 0x00#8, 0x01#8]) [(0, 0xC8#8), (1, 0x64#8)]))
    (fun t => t.x 0 = 0x2C#8 ∧ t.x 1 = 0x64#8 ∧ t.pc = 9#8) = true := by decide
/-- V22: ADD of a register to itself. -/
theorem test_add_same : nextHas (step (withRegs (placed 0#8 [0xA0#8, 0x00#8, 0x00#8]) [(0, 0x80#8)]))
    (fun t => t.x 0 = 0x00#8) = true := by decide
/-- V27: MUL keeps the low byte. -/
theorem test_mul_wraps : nextHas (step (withRegs (placed 0#8 [0xA2#8, 0x00#8, 0x01#8]) [(0, 0xFF#8), (1, 0xFF#8)]))
    (fun t => t.x 0 = 0x01#8 ∧ t.pc = 3#8) = true := by decide
/-- V26. -/
theorem test_mul : nextHas (step (withRegs (placed 0#8 [0xA2#8, 0x00#8, 0x01#8]) [(0, 0x0F#8), (1, 0x11#8)]))
    (fun t => t.x 0 = 0xFF#8) = true := by decide
/-- V31: PUSH with SP = 0. -/
theorem test_push_wraps : nextHas (step (withRegs (placed 3#8 [0x45#8, 0x00#8]) [(0, 0x2A#8), (7, 0x00#8)]))
    (fun t => t.sp = 0xFF#8 ∧ t.memRead 0xFF#8 = 0x2A#8 ∧ t.pc = 5#8) = true := by decide
/-- V32: PUSH R7 stores the decremented SP. -/
theorem test_push_sp : nextHas (step (placed 0#8 [0x45#8, 0x07#8]))
    (fun t => t.sp = 0xF3#8 ∧ t.memRead 0xF3#8 = 0xF3#8) = true := by decide
/-- V34: POP with SP = 0xFF. -/
theorem test_pop_wraps : nextHas (step (withRegs ((placed 0#8 [0x46#8, 0x02#8]).memWrite 0xFF#8 0x11#8) [(7, 0xFF#8)]))
    (fun t => t.x 2 = 0x11#8 ∧ t.sp = 0x00#8 ∧ t.memRead 0xFF#8 = 0x11#8) = true := by decide
/-- V35: POP R7 increments the popped value. -/
theorem test_pop_sp : nextHas (step ((placed 0#8 [0x46#8, 0x07#8]).memWrite 0xF4#8 0x20#8))
    (fun t => t.sp = 0x21#8) = true := by decide
/-- V41: CALL across the wrap. -/
theorem test_call_wraps : nextHas (step (withRegs (placed 0xFF#8 [0x50#8, 0x02#8]) [(2, 0x40#8)]))
    (fun t => t.sp = 0xF3#8 ∧ t.memRead 0xF3#8 = 0x01#8 ∧ t.pc = 0x40#8) = true := by decide
/-- V43: a CALL that overwrites its own operand uses the one fetched. -/
theorem test_call_overwrites_its_operand :
    nextHas (step (withRegs (placed 0#8 [0x50#8, 0x03#8, 0x01#8]) [(3, 0x02#8), (7, 0x02#8)]))
    (fun t => t.sp = 0x01#8 ∧ t.memRead 0x01#8 = 0x02#8 ∧ t.pc = 0x02#8) = true := by decide
/-- V44. -/
theorem test_ret : nextHas (step (withRegs ((placed 0x10#8 [0x11#8]).memWrite 0xF3#8 0x08#8) [(7, 0xF3#8)]))
    (fun t => t.pc = 0x08#8 ∧ t.sp = 0xF4#8) = true := by decide
/-- V45: RET with SP = 0xFF. -/
theorem test_ret_wraps : nextHas (step (withRegs ((placed 0#8 [0x11#8]).memWrite 0xFF#8 0x30#8) [(7, 0xFF#8)]))
    (fun t => t.pc = 0x30#8 ∧ t.sp = 0x00#8) = true := by decide
/-- V50, V53, V54: the comparison is unsigned. -/
theorem test_cmp_is_unsigned : compareFlags 0x05#8 0x05#8 = .equal ∧ compareFlags 0x00#8 0xFF#8 = .lessThan ∧
    compareFlags 0x80#8 0x7F#8 = .greaterThan := by decide
/-- V51. -/
theorem test_cmp : nextHas (step (withRegs (placed 12#8 [0xA7#8, 0x00#8, 0x01#8]) [(0, 6#8), (1, 5#8)]))
    (fun t => t.flags = .greaterThan ∧ t.pc = 15#8 ∧ t.x 0 = 6#8) = true := by decide
/-- V60. -/
theorem test_jmp : nextHas (step (withRegs (placed 0x20#8 [0x54#8, 0x03#8]) [(3, 0x0C#8)]))
    (fun t => t.pc = 0x0C#8) = true := by decide
/-- V61. -/
theorem test_jeq_taken : nextHas (step ((withRegs (placed 0x20#8 [0x55#8, 0x03#8]) [(3, 0x0C#8)]).setFlags .equal))
    (fun t => t.pc = 0x0C#8 ∧ t.flags = .equal) = true := by decide
/-- V64: Clear falls through. -/
theorem test_jeq_clear : nextHas (step (withRegs (placed 0x20#8 [0x55#8, 0x03#8]) [(3, 0x0C#8)]))
    (fun t => t.pc = 0x22#8 ∧ t.flags = .clear) = true := by decide
/-- V69: the fall-through wraps. -/
theorem test_jne_wraps : nextHas (step ((placed 0xFE#8 [0x56#8, 0x03#8]).setFlags .equal))
    (fun t => t.pc = 0x00#8) = true := by decide
/-- V68: Clear jumps. -/
theorem test_jne_clear : nextHas (step (withRegs (placed 0x20#8 [0x56#8, 0x03#8]) [(3, 0x0C#8)]))
    (fun t => t.pc = 0x0C#8) = true := by decide
/-- V1: the empty program faults at address 0. -/
theorem test_unknown_opcode :
    nextHas (step State.reset) (fun t => t = { State.reset with run := .faulted, fault := some ⟨0x00#8, 0x00#8⟩ }) = true := by
  decide
/-- V7: no step in Halted. -/
theorem test_halted_stays : step (placed 0#8 [0x82#8]).halt = .next (placed 0#8 [0x82#8]).halt := rfl

/-- V5 as a table word placed where reset fetches. -/
theorem test_fetch_word : nextHas (step (State.reset.withFetchWord 24 0x330A82))
    (fun t => t.x 2 = 0x33#8 ∧ t.pc = 3#8 ∧ t.run = .running) = true := by decide

/-! ### Memory, loader and host -/

theorem test_memory_is_canonical : (((State.reset.memWrite 5#8 1#8).memWrite 3#8 2#8).memWrite 5#8 0#8).mem = [(3, 2#8)] := by
  decide
/-- R251: byte 256 of an image overwrites byte 0. -/
theorem test_loader_wraps : (State.reset.loadFrom 255 [1#8, 2#8]).memRead 0#8 = 2#8 := by decide
/-- R250: white space, comments and blank lines; the example literal is LDI's opcode. -/
theorem test_program_text : parseProgram
    [' ', '1', '0', '0', '0', '0', '0', '1', '0', ' ', '#', ' ', 'x', '\n', '\n', '#', '1', '\n', '1', '\n'] =
    some [0x82#8, 0x01#8] := by decide
/-- R223: no base-2 literal, or one above 255. -/
theorem test_program_text_malformed : parseProgram ['1', '2', '\n'] = none ∧
    parseProgram ['1', '0', '0', '0', '0', '0', '0', '0', '0'] = none ∧ parseProgram ['1', ' ', '1'] = none := by decide
/-- R101: 44 is rendered as its digits and a newline. -/
theorem test_render : renderOut [8#8, 44#8] = ['8', '\n', '4', '4', '\n'] := by decide

/-! ### Witnesses: states and operands that meet the hypotheses of the statements -/

theorem witness_round_trip : (Instr.ldi 7 0xFF#8).wellFormed = true ∧
    ∀ i ∈ [Instr.add 0 7, Instr.hlt, Instr.call 3], i.wellFormed = true := by decide
theorem witness_stream : decodeBytes [0x82#8, 0xFF#8, 0x33#8, 0x01#8] = .ok (.ldi 7 0x33#8, [0x01#8]) := rfl
theorem witness_no_opcode : (0xFF#8 : Byte) ∉ ([0x01#8, 0x82#8, 0x47#8, 0xA0#8, 0xA2#8, 0x45#8, 0x46#8, 0x50#8, 0x11#8, 0xA7#8,
    0x54#8, 0x55#8, 0x56#8] : List Byte) ∧ operandCount 0xFF#8 = 3 ∧ operandCount 0xC0#8 = 3 := by decide
theorem witness_operand_bits : (0xFF#8 : Byte).toNat % 8 = (0x07#8 : Byte).toNat % 8 ∧ lookup 0xA0#8 ≠ some .ldi := by decide
theorem witness_decoded_step : (placed 0xFE#8 [0x82#8, 0x01#8, 0x2C#8]).run = .running ∧
    decode ((placed 0xFE#8 [0x82#8, 0x01#8, 0x2C#8]).memRead 0xFE#8) ((placed 0xFE#8 [0x82#8, 0x01#8, 0x2C#8]).memRead 0xFF#8)
      ((placed 0xFE#8 [0x82#8, 0x01#8, 0x2C#8]).memRead 0x00#8) = .ok (.ldi 1 0x2C#8) := ⟨rfl, rfl⟩
theorem witness_encoded_step : (Instr.add 7 0).wellFormed = true ∧
    AtBytes (placed 0xFF#8 (encode (.add 7 0))) (encode (.add 7 0)) := ⟨rfl, rfl, rfl, rfl, rfl, trivial⟩
theorem witness_unknown : (placed 0xFF#8 [0xA1#8]).run = .running ∧ lookup ((placed 0xFF#8 [0xA1#8]).memRead 0xFF#8) = none := by
  decide
theorem witness_stopped : State.reset.halt.run ≠ .running ∧ (State.reset.raiseUnknownOpcode ⟨0#8⟩).run ≠ .running := by decide
/-- The three ways of `RunStateTransitions`: stopped, at an HLT byte, at no opcode. -/
theorem witness_transitions :
    (step State.reset.halt = .next State.reset.halt ∧ State.reset.halt.run ≠ .running) ∧
    (step (placed 0#8 [0x01#8]) = .next (placed 0#8 [0x01#8]).halt ∧ (placed 0#8 [0x01#8]).run = .running) ∧
    (step State.reset = .next (State.reset.raiseUnknownOpcode ⟨0x00#8⟩) ∧ State.reset.run = .running) :=
  ⟨⟨rfl, by decide⟩, ⟨rfl, rfl⟩, ⟨rfl, rfl⟩⟩
theorem witness_at_ldi : AtBytes (placed 0xFE#8 [0x82#8, 0x07#8, 0xFF#8]) [opcodeByte .ldi, 0x07#8, 0xFF#8] :=
  ⟨rfl, rfl, rfl, rfl, trivial⟩
theorem witness_at_prn : AtBytes (placed 0xFF#8 [0x47#8, 0xFF#8]) [opcodeByte .prn, 0xFF#8] := ⟨rfl, rfl, rfl, trivial⟩
theorem witness_at_hlt : AtBytes (placed 0xFF#8 [0x01#8]) [opcodeByte .hlt] := ⟨rfl, rfl, trivial⟩
theorem witness_at_add : AtBytes (placed 0xFF#8 [0xA0#8, 0x07#8, 0x07#8]) [opcodeByte .add, 0x07#8, 0x07#8] :=
  ⟨rfl, rfl, rfl, rfl, trivial⟩
theorem witness_at_mul : AtBytes (placed 0#8 [0xA2#8, 0x00#8, 0x01#8]) [opcodeByte .mul, 0x00#8, 0x01#8] :=
  ⟨rfl, rfl, rfl, rfl, trivial⟩
theorem witness_at_push : AtBytes (placed 0xFF#8 [0x45#8, 0x07#8]) [opcodeByte .push, 0x07#8] := ⟨rfl, rfl, rfl, trivial⟩
theorem witness_at_pop : AtBytes (placed 0xFE#8 [0x46#8, 0x07#8]) [opcodeByte .pop, 0x07#8] := ⟨rfl, rfl, rfl, trivial⟩
theorem witness_at_call : AtBytes (placed 0xFF#8 [0x50#8, 0x07#8]) [opcodeByte .call, 0x07#8] := ⟨rfl, rfl, rfl, trivial⟩
theorem witness_at_ret : AtBytes (placed 0xFF#8 [0x11#8]) [opcodeByte .ret] := ⟨rfl, rfl, trivial⟩
theorem witness_at_cmp : AtBytes (placed 0xFD#8 [0xA7#8, 0x07#8, 0x00#8]) [opcodeByte .cmp, 0x07#8, 0x00#8] :=
  ⟨rfl, rfl, rfl, rfl, trivial⟩
theorem witness_at_jmp : AtBytes (placed 0xFF#8 [0x54#8, 0x07#8]) [opcodeByte .jmp, 0x07#8] := ⟨rfl, rfl, rfl, trivial⟩
theorem witness_at_jeq : AtBytes (placed 0xFF#8 [0x55#8, 0x03#8]) [opcodeByte .jeq, 0x03#8] := ⟨rfl, rfl, rfl, trivial⟩
theorem witness_at_jne : AtBytes (placed 0xFF#8 [0x56#8, 0x03#8]) [opcodeByte .jne, 0x03#8] := ⟨rfl, rfl, rfl, trivial⟩
/-- The third clause of `RetPopsThePcAndUndoesCall`: the state after a CALL itself meets it. -/
theorem witness_call_then_ret : ∃ t : State, exec (.call 7) State.reset = .next t ∧ t.x 7 = t.x 7 ∧
    t.memRead (t.x 7) = t.memRead (t.x 7) := ⟨_, rfl, rfl, rfl⟩
/-- Spec 3.4: PUSH R0 with SP = 9 at address 6 stores on address 8. -/
theorem witness_pushed_code : AtBytes (withRegs (placed 6#8 [0x45#8, 0x00#8]) [(7, 9#8), (0, 1#8)]) [opcodeByte .push, 0x00#8] ∧
    (withRegs (placed 6#8 [0x45#8, 0x00#8]) [(7, 9#8), (0, 1#8)]).x 7 - 1#8 = 6#8 + 2#8 :=
  ⟨⟨rfl, rfl, rfl, trivial⟩, rfl⟩
/-- V70. -/
theorem witness_self_jump : AtBytes (withRegs (placed 20#8 [0x54#8, 0x03#8]) [(3, 20#8)]) [opcodeByte .jmp, 0x03#8] ∧
    (withRegs (placed 20#8 [0x54#8, 0x03#8]) [(3, 20#8)]).x 3 = 20#8 := ⟨⟨rfl, rfl, rfl, trivial⟩, rfl⟩
theorem witness_straight_line : ∃ t : State, exec (.push 0) (placed 0xFF#8 []) = .next t ∧ endsElsewhere .push = false :=
  ⟨_, rfl, rfl⟩
theorem witness_reaches_the_host : (∃ t : State, exec .hlt State.reset = .next t) ∧
    (∃ t : State, exec (.prn 7) State.reset = .next t) ∧ ∃ t : State, exec (.pop 7) State.reset = .next t :=
  ⟨⟨_, rfl⟩, ⟨_, rfl⟩, ⟨_, rfl⟩⟩
theorem witness_flags_change : ∃ t : State, step (placed 0#8 [0xA7#8, 0x00#8, 0x00#8]) = .next t ∧
    t.flags ≠ (placed 0#8 [0xA7#8, 0x00#8, 0x00#8]).flags := ⟨_, rfl, by decide⟩
theorem witness_flags_stay : ∃ t : State, core.run 1 ((placed 0#8 [0x45#8, 0x00#8]).setFlags .equal) = .next t ∧
    ((placed 0#8 [0x45#8, 0x00#8]).setFlags .equal).flags ≠ .clear := ⟨_, rfl, by decide⟩
theorem witness_output_grows : ∃ t : State, core.run 1 (placed 0#8 [0x47#8, 0x07#8]) = .next t ∧ t.out = [0xF4#8] := ⟨_, rfl, rfl⟩
theorem witness_memory_change : ∃ t : State, step (placed 0#8 [0x45#8, 0x07#8]) = .next t ∧
    t.memRead 0xF3#8 ≠ (placed 0#8 [0x45#8, 0x07#8]).memRead 0xF3#8 := ⟨_, rfl, by decide⟩
theorem witness_unwritten_register : ∃ t : State, exec (.pop 3) State.reset = .next t ∧ ¬ Names (regsWritten (.pop 3)) 2 :=
  ⟨_, rfl, by simp [Names, regsWritten]⟩
/-- Both clauses of `OnlyNamedRegistersAreRead`: a register written and not read, and one neither read nor written. -/
theorem witness_unread_register : ∃ t : State, exec (.pop 3) State.reset = .next t ∧
    (¬ Names (regsRead (.pop 3)) 3 ∧ Names (regsWritten (.pop 3)) 3) ∧
    (¬ Names (regsRead (.pop 3)) 2 ∧ ¬ Names (regsWritten (.pop 3)) 2) :=
  ⟨_, rfl, by simp [Names, regsRead, regsWritten]⟩
theorem witness_inv_step : ∃ t : State, (State.reset.mem.wf = true ∧ State.reset.faultRecordFits = true ∧
    State.reset.haltFits = true) ∧ step State.reset = .next t := ⟨_, by decide, rfl⟩
theorem witness_reachable_faulted : ∃ t : State, Reachable [] t ∧ t.run = .faulted :=
  ⟨_, .next _ _ .start rfl, rfl⟩
theorem witness_reachable_running : Reachable [0x01#8] (boot [0x01#8]) ∧ (boot [0x01#8]).run ≠ .faulted := ⟨.start, by decide⟩
theorem witness_clean_run : EndsCleanly (boot [0x01#8]) := ⟨1, rfl⟩
theorem witness_canonical_memories : Memory.wf [(0, 1#8), (255, 2#8)] = true ∧ Memory.wf [] = true ∧
    Memory.wf [(256, 1#8)] = false ∧ Memory.wf [(3, 0#8)] = false ∧ Memory.wf [(5, 1#8), (5, 2#8)] = false := by decide
/-- The two clauses of `BootLoadsTheImage` on an image of one byte: cell 0 is the last byte's, cell 255 is no byte's. -/
theorem witness_boot : (∀ j, 0 < j → j < [0x82#8].length → j % 256 ≠ 0 % 256) ∧
    (∀ i, i < [0x82#8].length → i % 256 ≠ (0xFF#8 : Byte).toNat) := by
  refine ⟨fun j h h' => ?_, fun i h => ?_⟩
  · simp only [List.length_cons, List.length_nil] at h'; omega
  · simp only [List.length_cons, List.length_nil] at h
    have : i = 0 := by omega
    subst this
    decide
/-- An image that wraps: byte 256 is the last one for cell 0. -/
theorem witness_boot_wraps : 256 < (List.replicate 257 1#8).length ∧
    ∀ j, 256 < j → j < (List.replicate 257 (1#8 : Byte)).length → j % 256 ≠ 256 % 256 :=
  ⟨by rw [List.length_replicate]; decide, fun j h h' => by rw [List.length_replicate] at h'; omega⟩
theorem witness_result_codes : (runFor 1 (boot [0x01#8])).run = .halted ∧ (runFor 1 (boot [])).run = .faulted ∧
    (runFor 0 (boot [])).run = .running ∧ parseProgram ['2'] = none := by decide
theorem witness_final_code : (Launch.started (boot [0x01#8])).resultCode 1 = some 0 ∧
    Launch.loadFailure.resultCode 0 = some Config.exitLoadFailure := ⟨rfl, rfl⟩

end Sys2Proof.Tests
end

/-! ## Proofs: encoding (30_encoding.md R71, R91) -/

section

namespace Sys2Proof

/-- A first operand byte counts only by the register it selects (R71, R77). -/
theorem assemble_congr_left {a a' : Byte} (h : regSelect a = regSelect a') (m : Mnemonic) (b : Byte) :
    assemble m a b = assemble m a' b := by
  cases m <;> simp only [assemble, h]

/-- A second operand byte counts only by the register it selects, unless it is LDI's immediate (R71, R76, R77). -/
theorem assemble_congr_right {b b' : Byte} (h : regSelect b = regSelect b') {m : Mnemonic} (hm : m ≠ .ldi) (a : Byte) :
    assemble m a b = assemble m a b' := by
  cases m with
  | ldi => exact absurd rfl hm
  | hlt | prn | add | mul | push | pop | call | ret | cmp | jmp | jeq | jne => simp only [assemble, h]

/-- Operand bytes reach the decoder's answer only through the instruction assembled from them (R81). -/
theorem decode_congr {op a b a' b' : Byte}
    (h : ∀ m, lookup op = some m → assemble m a b = assemble m a' b') : decode op a b = decode op a' b' := by
  unfold decode
  cases hl : lookup op with
  | none => rfl
  | some m => simp only [h m hl]

/-- Settles O5: the mod-8 clauses because the decoder uses operand bytes only in `assemble`, the others by the decoder's
answer on an opcode byte. -/
theorem operandBytesSelectByLowBits : Obligations.OperandBytesSelectByLowBits := by
  refine ⟨fun op a a' b h => ?_, fun op a b b' hop h => ?_, decode_opcodeByte .ldi, decode_opcodeByte .prn,
    decode_opcodeByte .add, decode_opcodeByte .mul, decode_opcodeByte .push, decode_opcodeByte .pop,
    decode_opcodeByte .call, decode_opcodeByte .cmp, decode_opcodeByte .jmp, decode_opcodeByte .jeq,
    decode_opcodeByte .jne⟩
  · exact decode_congr fun m _ => assemble_congr_left h m b
  · refine decode_congr fun m hm => assemble_congr_right h ?_ a
    rintro rfl
    exact hop hm

end Sys2Proof

namespace Sys2Proof.Machine

open Sys2Proof.Statements

/-- The advance on numbers (R91). -/
theorem State.advance_pc_toNat (s : State) (m : Mnemonic) :
    (s.advance m).pc.toNat = (s.pc.toNat + instrLength m) % 256 := by
  simp

/-- A straight-line handler does its work without touching pc, and advances last (R91). -/
theorem exec_straightLine_eq_advance {i : Instr} (hi : endsElsewhere i.mnemonic = false) (s : State) :
    ∃ u : State, exec i s = .next (u.advance i.mnemonic) ∧ u.pc = s.pc := by
  cases i with
  | ldi | prn | add | mul | push | pop | cmp => exact ⟨_, rfl, rfl⟩
  | hlt | call | ret | jmp | jeq | jne => simp [Instr.mnemonic, endsElsewhere] at hi

/-- Settles O30: the straight-line handlers end with the advance. -/
theorem straightLineAdvancesByLength : Obligations.StraightLineAdvancesByLength := by
  intro i s t h hi
  obtain ⟨u, hu, hpc⟩ := exec_straightLine_eq_advance hi s
  obtain rfl : u.advance i.mnemonic = t := by simpa [hu] using h
  rw [State.advance_pc_toNat, hpc]

end Sys2Proof.Machine
end

/-! ## Proofs: LDI (41_ldi_prn_hlt.md R100), and the step of an opcode byte at pc (30_encoding.md R90) -/

section

namespace Sys2Proof.Machine

open Sys2Proof.Statements

/-- A running block at an opcode byte runs that mnemonic's handler on the operand bytes after it (R81, R90). -/
theorem step_of_opcodeByte {s : State} {m : Mnemonic} (hrun : s.run = .running) (hop : s.memRead s.pc = opcodeByte m) :
    step s = exec (assemble m (s.memRead (s.pc + 1#8)) (s.memRead (s.pc + 2#8))) s := by
  have hfetch : s.fetch = .ok (assemble m (s.memRead (s.pc + 1#8)) (s.memRead (s.pc + 2#8))) := by
    rw [State.fetch, hop, decode_opcodeByte]
  simp only [step, hrun, hfetch]

/-- The same with both operand bytes given. -/
theorem step_of_atBytes_two {s : State} {m : Mnemonic} {a b : Byte} (h : AtBytes s [opcodeByte m, a, b]) :
    step s = exec (assemble m a b) s := by
  obtain ⟨hrun, hop, ha, hb, -⟩ := h
  have hpc : s.pc + 1#8 + 1#8 = s.pc + 2#8 := BitVec.add_assoc ..
  rw [hpc] at hb
  rw [step_of_opcodeByte hrun hop, ha, hb]

/-- A register write and the advance after it: pc and that register change, and nothing else (R91). -/
theorem becomes_setX_advance (s : State) (r : Nat) (v : Byte) (m : Mnemonic) :
    Becomes s ((s.setX r v).advance m) (pc := s.pc + BitVec.ofNat 8 (instrLength m)) (x := withReg s.x r v) :=
  ⟨rfl, fun k => s.setX_x r k v, rfl, rfl, rfl, fun _ => rfl, rfl⟩

/-- LDI's handler is a register write of the immediate and an advance by its length of 3 (R100). -/
theorem exec_ldi_becomes (ra : Nat) (imm : Byte) (s : State) :
    ∃ t, exec (.ldi ra imm) s = .next t ∧ Becomes s t (pc := s.pc + 3#8) (x := withReg s.x ra imm) :=
  ⟨_, rfl, becomes_setX_advance s ra imm .ldi⟩

/-- Settles O13: the step runs the handler on the register that the operand byte selects modulo 8. -/
theorem ldiLoadsTheImmediate : Obligations.LdiLoadsTheImmediate := by
  refine ⟨exec_ldi_becomes, fun a b s h => ?_⟩
  have hstep : step s = exec (.ldi (a.toNat % 8) b) s := step_of_atBytes_two h
  rw [hstep]
  exact exec_ldi_becomes (a.toNat % 8) b s

end Sys2Proof.Machine
end

/-! ## Proofs: ADD and MUL (42_arithmetic.md R120, R121) -/

section

namespace Sys2Proof.Machine

open Sys2Proof.Statements

/-- ADD's handler writes the ALU's sum, which wraps modulo 256, and advances by its length of 3 (R120). -/
theorem exec_add_becomes (ra rb : Nat) (s : State) :
    ∃ t, exec (.add ra rb) s = .next t ∧ Becomes s t (pc := s.pc + 3#8)
      (x := withReg s.x ra (BitVec.ofNat 8 (((s.x ra).toNat + (s.x rb).toNat) % 256))) := by
  rw [← aluAdd_eq]
  exact ⟨_, rfl, becomes_setX_advance s ra (aluAdd (s.x ra) (s.x rb)) .add⟩

/-- MUL's handler writes the low 8 bits of the product and advances by its length of 3 (R121). -/
theorem exec_mul_becomes (ra rb : Nat) (s : State) :
    ∃ t, exec (.mul ra rb) s = .next t ∧ Becomes s t (pc := s.pc + 3#8)
      (x := withReg s.x ra (BitVec.ofNat 8 (((s.x ra).toNat * (s.x rb).toNat) % 256))) := by
  rw [← aluMul_eq]
  exact ⟨_, rfl, becomes_setX_advance s ra (aluMul (s.x ra) (s.x rb)) .mul⟩

/-- Settles O16: the step runs the handler on the registers that the operand bytes select modulo 8. -/
theorem addAddsModulo256 : Obligations.AddAddsModulo256 := by
  refine ⟨exec_add_becomes, fun a b s h => ?_⟩
  have hstep : step s = exec (.add (a.toNat % 8) (b.toNat % 8)) s := step_of_atBytes_two h
  rw [hstep]
  exact exec_add_becomes (a.toNat % 8) (b.toNat % 8) s

/-- Settles O17: the step runs the handler on the registers that the operand bytes select modulo 8. -/
theorem mulMultipliesModulo256 : Obligations.MulMultipliesModulo256 := by
  refine ⟨exec_mul_becomes, fun a b s h => ?_⟩
  have hstep : step s = exec (.mul (a.toNat % 8) (b.toNat % 8)) s := step_of_atBytes_two h
  rw [hstep]
  exact exec_mul_becomes (a.toNat % 8) (b.toNat % 8) s

end Sys2Proof.Machine
end

/-! ## Proofs: CALL and RET (44_subroutine.md R160, R161) -/

section

namespace Sys2Proof.Machine

open Sys2Proof.Statements

/-- CALL's handler stores the return address at the decremented SP and goes to the register, read after SP moved (R160). -/
theorem exec_call_becomes (ra : Nat) (s : State) :
    ∃ t, exec (.call ra) s = .next t ∧ Becomes s t (pc := withReg s.x 7 (s.x 7 - 1#8) ra)
      (x := withReg s.x 7 (s.x 7 - 1#8)) (mem := withByte s.memRead (s.x 7 - 1#8) (s.pc + 2#8)) := by
  have hsp : s.decSp.sp = s.x 7 - 1#8 := s.decSp_x 7
  refine ⟨_, rfl, s.decSp_x ra, s.decSp_x, rfl, rfl, rfl, ?_, rfl⟩
  rw [← hsp]
  exact s.decSp.memWrite_memRead s.decSp.sp (s.nextPc .call)

/-- RET's handler goes to the byte at SP and then increments SP (R161). -/
theorem exec_ret_becomes (s : State) :
    ∃ t, exec .ret s = .next t ∧
      Becomes s t (pc := s.memRead (s.x 7)) (x := withReg s.x 7 (s.x 7 + 1#8)) :=
  ⟨_, rfl, rfl, (s.setPc (s.memRead (s.x 7))).incSp_x, rfl, rfl, rfl, fun _ => rfl, rfl⟩

/-- What a CALL leaves for its RET: SP one lower, and there the address of the byte after the CALL (R160). -/
theorem exec_call_leaves_returnAddress {ra : Nat} {s t : State} (h : exec (.call ra) s = .next t) :
    t.x 7 = s.x 7 - 1#8 ∧ t.memRead (t.x 7) = s.pc + 2#8 := by
  obtain ⟨t', ht', -, hx, -, -, -, hmem, -⟩ := exec_call_becomes ra s
  obtain rfl : t' = t := by simpa [ht'] using h
  have hsp : t'.x 7 = s.x 7 - 1#8 := by simp [hx, withReg]
  exact ⟨hsp, by simp [hmem, hsp, withByte]⟩

/-- Settles O21: RET reads only SP and the byte there, so after a CALL it finds the return address, and its increment of SP
undoes CALL's decrement. -/
theorem retPopsThePcAndUndoesCall : Obligations.RetPopsThePcAndUndoesCall := by
  refine ⟨exec_ret_becomes, fun s h => ?_, fun ra s t u hcall hsp hbyte => ?_⟩
  · obtain ⟨hrun, hop, -⟩ := h
    have hstep : step s = exec .ret s := step_of_opcodeByte hrun hop
    rw [hstep]
    exact exec_ret_becomes s
  · obtain ⟨htsp, hret⟩ := exec_call_leaves_returnAddress hcall
    have hpc : u.memRead (u.x 7) = s.pc + 2#8 := by rw [hsp, hbyte, hret]
    have hinc : u.x 7 + 1#8 = s.x 7 := by rw [hsp, htsp, BitVec.sub_add_cancel]
    rw [← hpc, ← hinc]
    exact exec_ret_becomes u

end Sys2Proof.Machine
end

/-! ## Proofs: CMP (45_compare.md R180) -/

section

namespace Sys2Proof.Machine

open Sys2Proof.Statements

/-- A write of Flags and the advance after it: pc and Flags change, and nothing else (R91). -/
theorem becomes_setFlags_advance (s : State) (f : Flags) (m : Mnemonic) :
    Becomes s ((s.setFlags f).advance m) (pc := s.pc + BitVec.ofNat 8 (instrLength m)) (flags := f) :=
  ⟨rfl, fun _ => rfl, rfl, rfl, rfl, fun _ => rfl, rfl⟩

/-- CMP's handler sets Flags by the unsigned comparison and advances by its length of 3 (R180). -/
theorem exec_cmp_becomes (ra rb : Nat) (s : State) :
    ∃ t, exec (.cmp ra rb) s = .next t ∧ Becomes s t (pc := s.pc + 3#8)
      (flags := if (s.x ra).toNat = (s.x rb).toNat then .equal
        else if (s.x ra).toNat > (s.x rb).toNat then .greaterThan else .lessThan) := by
  rw [← compareFlags_eq]
  exact ⟨_, rfl, becomes_setFlags_advance s (compareFlags (s.x ra) (s.x rb)) .cmp⟩

/-- Settles O22: the step runs the handler on the registers that the operand bytes select modulo 8. -/
theorem cmpSetsOneFlag : Obligations.CmpSetsOneFlag := by
  refine ⟨exec_cmp_becomes, fun a b s h => ?_⟩
  have hstep : step s = exec (.cmp (a.toNat % 8) (b.toNat % 8)) s := step_of_atBytes_two h
  rw [hstep]
  exact exec_cmp_becomes (a.toNat % 8) (b.toNat % 8) s

end Sys2Proof.Machine
end

/-! ## Proofs: JMP, JEQ and JNE (46_jumps.md R201 to R203) -/

section

namespace Sys2Proof.Machine

open Sys2Proof.Statements

/-- The step of a running block at an opcode byte with its first operand byte given; a second one is whatever stands
there (R81, R90). -/
theorem step_of_atBytes_one {s : State} {m : Mnemonic} {a : Byte} (h : AtBytes s [opcodeByte m, a]) :
    step s = exec (assemble m a (s.memRead (s.pc + 2#8))) s := by
  obtain ⟨hrun, hop, ha, -⟩ := h
  rw [step_of_opcodeByte hrun hop, ha]

/-- A write of pc changes nothing else. -/
theorem becomes_setPc (s : State) (target : Byte) : Becomes s (s.setPc target) (pc := target) :=
  ⟨rfl, fun _ => rfl, rfl, rfl, rfl, fun _ => rfl, rfl⟩

/-- In every machine behind the host's interface, a state whose step answers itself is kept over any number of steps. -/
theorem core_run_of_step_self (M : Host.Core) {s : M.State} (h : M.step s = .next s) (n : Nat) :
    M.run n s = .next s := by
  induction n with
  | zero => rfl
  | succ n ih => rw [Host.Core.run, h]; exact ih

/-- JMP's handler writes pc and nothing else (R201). -/
theorem exec_jmp_becomes (ra : Nat) (s : State) :
    ∃ t, exec (.jmp ra) s = .next t ∧ Becomes s t (pc := s.x ra) :=
  ⟨_, rfl, becomes_setPc s (s.x ra)⟩

/-- A JMP whose register holds pc writes pc back (R201). -/
theorem exec_jmp_self {ra : Nat} {s : State} (h : s.x ra = s.pc) : exec (.jmp ra) s = .next s := by
  have hexec : exec (.jmp ra) s = .next (s.setPc (s.x ra)) := rfl
  have hkeep : s.setPc s.pc = s := rfl
  rw [hexec, h, hkeep]

/-- JEQ's handler writes pc and nothing else, in either case of Flags (R202). -/
theorem exec_jeq_becomes (ra : Nat) (s : State) :
    ∃ t, exec (.jeq ra) s = .next t ∧ Becomes s t (pc := if s.flags = .equal then s.x ra else s.pc + 2#8) := by
  refine ⟨_, rfl, ?_⟩
  by_cases hf : s.flags = .equal
  · rw [if_pos hf, if_pos hf]
    exact becomes_setPc s (s.x ra)
  · rw [if_neg hf, if_neg hf]
    exact becomes_setPc s (s.pc + 2#8)

/-- JNE's handler writes pc and nothing else, in either case of Flags (R203). -/
theorem exec_jne_becomes (ra : Nat) (s : State) :
    ∃ t, exec (.jne ra) s = .next t ∧ Becomes s t (pc := if s.flags = .equal then s.pc + 2#8 else s.x ra) := by
  refine ⟨_, rfl, ?_⟩
  by_cases hf : s.flags = .equal
  · rw [if_neg (not_not.mpr hf), if_pos hf]
    exact becomes_setPc s (s.pc + 2#8)
  · rw [if_pos hf, if_neg hf]
    exact becomes_setPc s (s.x ra)

/-- Settles O23: the step runs the handler on the register selected modulo 8, and where that register holds pc the step
answers the same state, so by induction every run does. -/
theorem jmpGoesToTheRegister : Obligations.JmpGoesToTheRegister := by
  have hstep (a : Byte) (s : State) (h : AtBytes s [opcodeByte .jmp, a]) : step s = exec (.jmp (a.toNat % 8)) s :=
    step_of_atBytes_one h
  refine ⟨exec_jmp_becomes, fun a s h => ?_, fun n a s h hself => ?_⟩
  · rw [hstep a s h]
    exact exec_jmp_becomes (a.toNat % 8) s
  · have hloop : step s = .next s := (hstep a s h).trans (exec_jmp_self hself)
    exact core_run_of_step_self Sys2Proof.core hloop n

/-- Settles O24: the step runs the handler on the register that the operand byte selects modulo 8. -/
theorem jeqJumpsOnEqual : Obligations.JeqJumpsOnEqual := by
  refine ⟨exec_jeq_becomes, fun a s h => ?_⟩
  have hstep : step s = exec (.jeq (a.toNat % 8)) s := step_of_atBytes_one h
  rw [hstep]
  exact exec_jeq_becomes (a.toNat % 8) s

/-- Settles O25: the step runs the handler on the register that the operand byte selects modulo 8. -/
theorem jneJumpsOnNotEqual : Obligations.JneJumpsOnNotEqual := by
  refine ⟨exec_jne_becomes, fun a s h => ?_⟩
  have hstep : step s = exec (.jne (a.toNat % 8)) s := step_of_atBytes_one h
  rw [hstep]
  exact exec_jne_becomes (a.toNat % 8) s

end Sys2Proof.Machine
end

/-! ## Proofs: exceptions and the host (60_exceptions.md R229, R230) -/

section

namespace Sys2Proof.Machine

/-- Every handler but HLT's and PRN's leaves the host's side of the state alone: the run state, the fault record and the
output (R229). -/
theorem exec_keeps_hostSide {i : Instr} {s t : State} (h : exec i s = .next t) (hhlt : i ≠ .hlt)
    (hprn : ∀ ra, i ≠ .prn ra) : t.run = s.run ∧ t.fault = s.fault ∧ t.out = s.out := by
  cases i with
  | hlt => exact absurd rfl hhlt
  | prn ra => exact absurd rfl (hprn ra)
  | ldi | add | mul | push | pop | call | ret | cmp | jmp =>
    obtain rfl := Host.Outcome.next.inj h
    exact ⟨rfl, rfl, rfl⟩
  | jeq | jne =>
    obtain rfl := Host.Outcome.next.inj h
    split <;> exact ⟨rfl, rfl, rfl⟩

/-- Settles O31: HLT and PRN by their handlers, every other instruction because it keeps the host's side. -/
theorem onlyHltAndPrnReachTheHost : Obligations.OnlyHltAndPrnReachTheHost := by
  intro i s t h
  cases i with
  | hlt =>
    obtain rfl : s.halt = t := Host.Outcome.next.inj h
    exact ⟨rfl, rfl, rfl⟩
  | prn ra =>
    obtain rfl : (s.emit (s.x ra)).advance .prn = t := Host.Outcome.next.inj h
    exact ⟨rfl, rfl, rfl⟩
  | ldi | add | mul | push | pop | call | ret | cmp | jmp | jeq | jne =>
    exact exec_keeps_hostSide h nofun nofun

/-- EXIT_UNKNOWN_OPCODE is nonzero (R230). -/
theorem exitUnknownOpcode_ne_zero : Config.exitUnknownOpcode ≠ 0 :=
  Nat.succ_ne_zero Config.freeUnknownOpcode

/-- EXIT_LOAD_FAILURE is nonzero in both cases of its definition (R230). -/
theorem exitLoadFailure_ne_zero : Config.exitLoadFailure ≠ 0 := by
  unfold Config.exitLoadFailure
  split <;> exact Nat.succ_ne_zero _

/-- EXIT_LOAD_FAILURE lies below EXIT_UNKNOWN_OPCODE or skips over it (R230). -/
theorem exitUnknownOpcode_ne_exitLoadFailure : Config.exitUnknownOpcode ≠ Config.exitLoadFailure := by
  unfold Config.exitLoadFailure
  split <;> omega

/-- What a started run reports is its run state's code (R230). -/
theorem Launch.resultCode_started_of_run {s : State} {n : Nat} {r : RunState} (h : (runFor n s).run = r) :
    (Launch.started s).resultCode n = r.resultCode :=
  congrArg RunState.resultCode h

/-- A malformed program text starts no run (R223). -/
theorem launchText_of_malformed {text : List Char} (h : parseProgram text = none) :
    launchText (some text) = .loadFailure :=
  congrArg launch h

/-- Settles O49: the codes by their definitions, and a launch reports the code of its run state, or of the failed load. -/
theorem resultCodesAreDistinct : Obligations.ResultCodesAreDistinct := by
  refine ⟨exitUnknownOpcode_ne_zero, exitLoadFailure_ne_zero, exitUnknownOpcode_ne_exitLoadFailure,
    fun s n => ⟨?halted, ?faulted, ?running⟩, ?unreadable, ?malformed⟩
  case halted | faulted | running => exact Launch.resultCode_started_of_run
  case unreadable => exact fun n => rfl
  case malformed => exact fun text n h => congrArg (Launch.resultCode · n) (launchText_of_malformed h)

end Sys2Proof.Machine
end

/-! ## Proofs: encoding and the stream decoder (30_encoding.md R70 to R81) -/

section

namespace Sys2Proof

open Sys2Proof.Statements

/-- The operand bytes a format holds, of the two the assembler takes (R70). -/
def Format.operands : Format → Byte → Byte → List Byte
  | .f0, _, _ => []
  | .f1, a, _ => [a]
  | .f2, a, b => [a, b]

theorem Format.operands_length (f : Format) (a b : Byte) : (f.operands a b).length + 1 = f.length := by
  cases f with
  | f0 | f1 | f2 => rfl

theorem Format.length_le_three (f : Format) : f.length ≤ 3 := by
  cases f with
  | f0 | f1 | f2 => decide

/-- The stream decoder takes the opcode byte and the operand bytes of its format, and no more (R73). -/
theorem decodeBytes_opcodeByte (m : Mnemonic) (a b : Byte) (rest : List Byte) :
    decodeBytes (opcodeByte m :: ((format m).operands a b ++ rest)) = .ok (assemble m a b, rest) := by
  cases m with
  | hlt | ldi | prn | add | mul | push | pop | call | ret | cmp | jmp | jeq | jne => rfl

/-- Everything the stream decoder accepts is an opcode byte and the operand bytes of its format (R73, R79). -/
theorem eq_opcodeByte_of_decodeBytes {bytes rest : List Byte} {i : Instr} (h : decodeBytes bytes = .ok (i, rest)) :
    ∃ m a b, bytes = opcodeByte m :: ((format m).operands a b ++ rest) ∧ i = assemble m a b := by
  unfold decodeBytes at h
  split at h
  · simp at h
  next op tail =>
  split at h
  · simp at h
  next m hl =>
  obtain rfl := opcodeByte_of_lookup hl
  split at h
  · next hf =>
    obtain ⟨rfl, rfl⟩ := Prod.mk.inj (Except.ok.inj h)
    exact ⟨m, 0#8, 0#8, by rw [hf]; rfl, rfl⟩
  · next a tail hf =>
    obtain ⟨rfl, rfl⟩ := Prod.mk.inj (Except.ok.inj h)
    exact ⟨m, a, 0#8, by rw [hf]; rfl, rfl⟩
  · next a b tail hf =>
    obtain ⟨rfl, rfl⟩ := Prod.mk.inj (Except.ok.inj h)
    exact ⟨m, a, b, by rw [hf]; rfl, rfl⟩
  · simp at h

@[simp] theorem mnemonic_assemble (m : Mnemonic) (a b : Byte) : (assemble m a b).mnemonic = m := by
  cases m with
  | hlt | ldi | prn | add | mul | push | pop | call | ret | cmp | jmp | jeq | jne => rfl

/-- The decoder makes only well-formed instructions (R77). -/
theorem assemble_wellFormed (m : Mnemonic) (a b : Byte) : (assemble m a b).wellFormed = true := by
  cases m with
  | hlt | ret => rfl
  | ldi | prn | push | pop | call | jmp | jeq | jne => exact regOk_regSelect a
  | add | mul | cmp => simp [assemble, Instr.wellFormed, regOk_regSelect]

/-- The encoding of a well-formed instruction is its opcode byte and operand bytes that select its operands (R75, R77). -/
theorem encode_eq_opcodeByte_cons {i : Instr} (h : i.wellFormed = true) :
    ∃ a b, encode i = opcodeByte i.mnemonic :: (format i.mnemonic).operands a b ∧ assemble i.mnemonic a b = i := by
  cases i with
  | hlt | ret => exact ⟨0#8, 0#8, rfl, rfl⟩
  | ldi ra imm => exact ⟨regByte ra, imm, rfl, congrArg (Instr.ldi · imm) (regSelect_regByte h)⟩
  | prn ra | push ra | pop ra | call ra | jmp ra | jeq ra | jne ra =>
    exact ⟨regByte ra, 0#8, rfl, congrArg _ (regSelect_regByte h)⟩
  | add ra rb | mul ra rb | cmp ra rb =>
    obtain ⟨ha, hb⟩ : regOk ra = true ∧ regOk rb = true := Bool.and_eq_true_iff.mp h
    exact ⟨regByte ra, regByte rb, rfl, congrArg₂ _ (regSelect_regByte ha) (regSelect_regByte hb)⟩

/-- Decoding an encoded well-formed instruction gives it back, and the bytes after it. -/
theorem decodeBytes_encode_append {i : Instr} (h : i.wellFormed = true) (rest : List Byte) :
    decodeBytes (encode i ++ rest) = .ok (i, rest) := by
  obtain ⟨a, b, henc, hasm⟩ := encode_eq_opcodeByte_cons h
  rw [henc, List.cons_append, decodeBytes_opcodeByte, hasm]

/-- Settles O1: one instruction by its opcode byte and operand bytes, a sequence by induction on it. -/
theorem decodeOfEncodeIsIdentity : Obligations.DecodeOfEncodeIsIdentity := by
  refine ⟨fun i rest h => decodeBytes_encode_append h rest, fun is hwf => ?_⟩
  induction is with
  | nil => rfl
  | cons i is ih =>
    obtain ⟨hi, his⟩ := List.forall_mem_cons.mp hwf
    exact ⟨is.flatMap encode, decodeBytes_encode_append hi _, ih his⟩

/-- An encoding is as long as its opcode declares (R73). -/
theorem encode_length (i : Instr) : (encode i).length = instrLength i.mnemonic := by
  cases i with
  | hlt | ldi | prn | add | mul | push | pop | call | ret | cmp | jmp | jeq | jne => rfl

/-- An encoding begins with the opcode byte of its mnemonic (R70). -/
theorem encode_head? (i : Instr) : (encode i).head? = some (opcodeByte i.mnemonic) := by
  cases i with
  | hlt | ldi | prn | add | mul | push | pop | call | ret | cmp | jmp | jeq | jne => rfl

/-- Settles O2: the bytes used are the opcode byte and the operand bytes of its format, as in the encoding. -/
theorem decodedStreamIsAnEncoding : Obligations.DecodedStreamIsAnEncoding := by
  intro bytes rest i h
  obtain ⟨m, a, b, rfl, rfl⟩ := eq_opcodeByte_of_decodeBytes h
  have hwf := assemble_wellFormed m a b
  refine ⟨hwf, opcodeByte m :: (format m).operands a b, rfl, ?_, ?_, decodeBytes_encode_append hwf rest⟩
  · rw [encode_length, mnemonic_assemble, List.length_cons, Format.operands_length, instrLength]
  · rw [encode_head?, mnemonic_assemble, List.head?_cons]

/-- Settles O3: a byte with a handler is that mnemonic's opcode byte, which is in the list. -/
theorem opcodeMapIsTheTables : Obligations.OpcodeMapIsTheTables := by
  refine ⟨lookup_opcodeByte .hlt, lookup_opcodeByte .ldi, lookup_opcodeByte .prn, lookup_opcodeByte .add,
    lookup_opcodeByte .mul, lookup_opcodeByte .push, lookup_opcodeByte .pop, lookup_opcodeByte .call,
    lookup_opcodeByte .ret, lookup_opcodeByte .cmp, lookup_opcodeByte .jmp, lookup_opcodeByte .jeq,
    lookup_opcodeByte .jne, fun op hop => ?_⟩
  cases hl : lookup op with
  | none => rfl
  | some m =>
    obtain rfl := opcodeByte_of_lookup hl
    refine absurd ?_ hop
    cases m with
    | hlt | ldi | prn | add | mul | push | pop | call | ret | cmp | jmp | jeq | jne => decide

/-- The top two bits of an opcode byte are its operand count (R72). -/
theorem operandCount_opcodeByte (m : Mnemonic) : operandCount (opcodeByte m) + 1 = instrLength m := by
  cases m with
  | hlt | ldi | prn | add | mul | push | pop | call | ret | cmp | jmp | jeq | jne => rfl

/-- Settles O4: an opcode with 0b11 on top would declare four bytes, and no format has more than three. -/
theorem topBitsAreOperandCount : Obligations.TopBitsAreOperandCount := by
  refine ⟨operandCount_opcodeByte, fun op hop => ?_⟩
  cases hl : lookup op with
  | none => rfl
  | some m =>
    obtain rfl := opcodeByte_of_lookup hl
    have hcount := operandCount_opcodeByte m
    have hlen : instrLength m ≤ 3 := (format m).length_le_three
    omega

/-- Settles O6: twelve closed words, each decoded by evaluation. -/
theorem tableWordsDecode : Obligations.TableWordsDecode := by
  unfold Obligations.TableWordsDecode
  decide

end Sys2Proof
end

/-! ## Proofs: steps, and runs of any number of them (30_encoding.md R90 to R93) -/

section

namespace Sys2Proof

/-- No two mnemonics share an opcode byte (R74). -/
theorem opcodeByte_inj {m m' : Mnemonic} : opcodeByte m = opcodeByte m' ↔ m = m' := by
  refine ⟨fun h => ?_, congrArg opcodeByte⟩
  have hlookup : lookup (opcodeByte m) = lookup (opcodeByte m') := congrArg lookup h
  simpa using hlookup

/-- Two pairs of operand bytes that are the same bytes of a format give the same instruction (R70). -/
theorem assemble_congr_operands {m : Mnemonic} {a b a' b' : Byte}
    (h : (format m).operands a b = (format m).operands a' b') : assemble m a b = assemble m a' b' := by
  cases m with
  | hlt | ret => rfl
  | prn | push | pop | call | jmp | jeq | jne =>
    obtain ⟨rfl, -⟩ := List.cons_eq_cons.mp h
    rfl
  | ldi | add | mul | cmp =>
    obtain ⟨rfl, hb⟩ := List.cons_eq_cons.mp h
    obtain ⟨rfl, -⟩ := List.cons_eq_cons.mp hb
    rfl

end Sys2Proof

namespace Sys2Proof.Machine

open Sys2Proof.Statements

/-- An instruction fetched is one whose opcode byte stands at pc (R81). -/
theorem memRead_pc_of_fetch {s : State} {i : Instr} (h : s.fetch = .ok i) :
    s.memRead s.pc = opcodeByte i.mnemonic := by
  obtain ⟨m, hl, hf⟩ | ⟨-, hf⟩ := s.fetch_cases
  · rw [hf] at h
    obtain rfl := Except.ok.inj h
    rw [mnemonic_assemble, opcodeByte_of_lookup hl]
  · rw [hf] at h
    simp at h

/-- A running block runs the instruction it fetches (R90). -/
theorem step_of_fetch {s : State} {i : Instr} (hrun : s.run = .running) (h : s.fetch = .ok i) : step s = exec i s := by
  simp only [step, hrun, h]

/-- A running block at no opcode takes the exception (R221). -/
theorem step_of_lookup_none {s : State} (hrun : s.run = .running) (h : lookup (s.memRead s.pc) = none) :
    step s = .next (s.raiseUnknownOpcode ⟨s.memRead s.pc⟩) := by
  obtain ⟨m, hl, -⟩ | ⟨-, hf⟩ := s.fetch_cases
  · rw [hl] at h
    simp at h
  · simp only [step, hrun, hf, takeUnknownOpcode]

/-- A stopped block answers its own state (R93; log 12). -/
theorem step_of_not_running {s : State} (h : s.run ≠ .running) : step s = .next s := by
  cases hrun : s.run with
  | running => exact absurd hrun h
  | halted | faulted => simp only [step, hrun, stayStopped]

/-- Settles O7: the fetch is that decode. -/
theorem stepRunsTheDecodedInstruction : Obligations.StepRunsTheDecodedInstruction :=
  fun _ _ hrun h => step_of_fetch hrun h

/-- The bytes of a format that stand at an address are read there, one after another. -/
theorem operands_of_bytesAt {s : State} {p : Byte} {f : Format} {a b : Byte} (h : BytesAt s p (f.operands a b)) :
    f.operands (s.memRead p) (s.memRead (p + 1#8)) = f.operands a b := by
  cases f with
  | f0 => rfl
  | f1 =>
    obtain ⟨ha, -⟩ := h
    rw [ha]; rfl
  | f2 =>
    obtain ⟨ha, hb, -⟩ := h
    rw [ha, hb]

/-- Settles O8: the encoding is an opcode byte and its operand bytes, which are what the step assembles. -/
theorem stepRunsTheEncodedInstruction : Obligations.StepRunsTheEncodedInstruction := by
  intro s i hwf h
  obtain ⟨a, b, henc, hasm⟩ := encode_eq_opcodeByte_cons hwf
  rw [henc] at h
  obtain ⟨hrun, hop, hbytes⟩ := h
  have hpc : s.pc + 1#8 + 1#8 = s.pc + 2#8 := BitVec.add_assoc ..
  have hops := operands_of_bytesAt hbytes
  rw [hpc] at hops
  rw [step_of_opcodeByte hrun hop, assemble_congr_operands hops, hasm]

/-- Settles O9: the exception writes run and the record. -/
theorem unknownOpcodeFaultsPrecisely : Obligations.UnknownOpcodeFaultsPrecisely :=
  fun _ hrun h => ⟨_, step_of_lookup_none hrun h, rfl, fun _ => rfl, rfl, rfl, rfl, fun _ => rfl, rfl⟩

/-- Settles O29: every handler answers a next state. -/
theorem everyInstructionCompletes : Obligations.EveryInstructionCompletes := by
  intro i s
  cases i with
  | hlt | ldi | prn | add | mul | push | pop | call | ret | cmp | jmp | jeq | jne => exact ⟨_, rfl⟩

/-- Every step answers a next state: a handler's, the exception's or the stopped block's own (R220). -/
theorem exists_step_next (s : State) : ∃ t, step s = .next t := by
  by_cases hrun : s.run = .running
  · obtain ⟨m, -, hf⟩ | ⟨hl, -⟩ := s.fetch_cases
    · rw [step_of_fetch hrun hf]
      exact everyInstructionCompletes _ s
    · exact ⟨_, step_of_lookup_none hrun hl⟩
  · exact ⟨s, step_of_not_running hrun⟩

/-- The state after one more step is that of a run from the next state (R92). -/
theorem runFor_succ {s t : State} (h : step s = .next t) (n : Nat) : runFor (n + 1) s = runFor n t := by
  simp only [runFor, h]

/-- In every machine behind the host's interface, a run takes its first step and goes on from there. -/
theorem core_run_succ (M : Host.Core) {s t : M.State} (h : M.step s = .next t) (n : Nat) :
    M.run (n + 1) s = M.run n t := by
  rw [Host.Core.run, h]

/-- The host interface's run is the machine's: it never stops early. -/
theorem core_run_eq_runFor (n : Nat) (s : State) : Sys2Proof.core.run n s = .next (runFor n s) := by
  induction n generalizing s with
  | zero => rfl
  | succ n ih =>
    obtain ⟨t, ht⟩ := exists_step_next s
    rw [runFor_succ ht]
    exact (core_run_succ Sys2Proof.core ht n).trans (ih t)

/-- A run's end by the host's interface and by the machine's. -/
theorem core_run_eq_next {n : Nat} {s t : State} : Sys2Proof.core.run n s = .next t ↔ runFor n s = t :=
  (core_run_eq_runFor n s).congr_left.trans (Host.Outcome.next.injEq ..).to_iff

/-- A run in two parts. -/
theorem runFor_add (n m : Nat) (s : State) : runFor (n + m) s = runFor m (runFor n s) := by
  induction n generalizing s with
  | zero => rw [Nat.zero_add]; rfl
  | succ n ih =>
    obtain ⟨t, ht⟩ := exists_step_next s
    rw [Nat.add_right_comm, runFor_succ ht, runFor_succ ht, ih]

/-- Settles O10: the step of a stopped block answers its own state, so by induction every run does. -/
theorem stoppedBlockKeepsItsState : Obligations.StoppedBlockKeepsItsState :=
  fun n _ h => core_run_of_step_self Sys2Proof.core (step_of_not_running h) n

/-- Settles O11: every run ends in the machine's own run. -/
theorem runsNeverStick : Obligations.RunsNeverStick :=
  fun n s => ⟨runFor n s, core_run_eq_runFor n s⟩

/-- Once a run has stopped, more steps give the same state (R93). -/
theorem runFor_add_of_not_running {n : Nat} {s : State} (h : (runFor n s).run ≠ .running) (m : Nat) :
    runFor (n + m) s = runFor n s := by
  rw [runFor_add]
  exact core_run_eq_next.mp (stoppedBlockKeepsItsState m _ h)

/-- Two times at which a run has stopped find the same state (R92). -/
theorem runFor_eq_of_not_running {n m : Nat} {s : State} (hn : (runFor n s).run ≠ .running)
    (hm : (runFor m s).run ≠ .running) : runFor n s = runFor m s := by
  rw [← runFor_add_of_not_running hn m, ← runFor_add_of_not_running hm n, Nat.add_comm]

/-- Settles O43: the run would have stopped in both states, which are then the same. -/
theorem cleanRunsNeverFault : Obligations.CleanRunsNeverFault := by
  rintro s ⟨n, hn⟩ m hm
  have hsame : runFor n s = runFor m s := runFor_eq_of_not_running (by simp [hn]) (by simp [hm])
  rw [hsame, hm] at hn
  simp at hn

/-- Settles O50: a code is reported only by a stopped run, which keeps its state, or by a failed load. -/
theorem resultCodeIsFinal : Obligations.ResultCodeIsFinal := by
  intro l n m c h
  cases l with
  | loadFailure => exact h
  | started s =>
    have hstopped : (runFor n s).run ≠ .running := by
      intro hrun
      rw [Launch.resultCode_started_of_run hrun] at h
      simp [RunState.resultCode] at h
    rw [Launch.resultCode, runFor_add_of_not_running hstopped]
    exact h

end Sys2Proof.Machine
end

/-! ## Proofs: the run state and the invariant (10_state.md R31, R32, 60_exceptions.md R221) -/

section

namespace Sys2Proof.Machine

open Sys2Proof.Statements

/-- The handler's effect on the run state: HLT halts, and no other changes it (R229). -/
theorem exec_run {i : Instr} {s t : State} (h : exec i s = .next t) :
    t.run = if i.mnemonic = .hlt then .halted else s.run := by
  obtain ⟨hrun, -⟩ := onlyHltAndPrnReachTheHost i s t h
  rw [hrun]
  cases i with
  | hlt | ldi | prn | add | mul | push | pop | call | ret | cmp | jmp | jeq | jne => simp [Instr.mnemonic]

/-- Settles O12: a handler halts exactly for HLT, and the exception is taken exactly at no opcode. -/
theorem runStateTransitions : Obligations.RunStateTransitions := by
  intro s t h
  obtain ⟨hrun, i, hf, hexec⟩ | ⟨hrun, hl, rfl⟩ | ⟨hrun, rfl⟩ := step_cases h
  · refine ⟨absurd hrun, fun _ => ?_⟩
    rw [memRead_pc_of_fetch hf, exec_run hexec, hrun, lookup_opcodeByte, opcodeByte_inj]
    by_cases hi : i.mnemonic = .hlt <;> simp [hi]
  · refine ⟨absurd hrun, fun _ => ⟨?_, by simp [hl]⟩⟩
    have hne : s.memRead s.pc ≠ opcodeByte .hlt := by
      intro hbyte
      simp [hbyte] at hl
    simp [hne]
  · exact ⟨fun _ => rfl, fun h => absurd h hrun⟩

/-- A fault record fits when it is the byte at pc and pc in Faulted, that byte no opcode, and there is none otherwise (R32). -/
theorem State.faultRecordFits_iff (s : State) : s.faultRecordFits = true ↔
    (s.run = .faulted → s.fault = some ⟨s.memRead s.pc, s.pc⟩ ∧ lookup (s.memRead s.pc) = none) ∧
    (s.run ≠ .faulted → s.fault = none) := by
  unfold State.faultRecordFits
  split
  · next f hrun hfault =>
    obtain ⟨opcode, pc⟩ := f
    simp only [hrun, hfault, Bool.and_eq_true, decide_eq_true_eq, Option.some.injEq, FaultRecord.mk.injEq]
    constructor
    · rintro ⟨⟨rfl, rfl⟩, hl⟩
      simp [hl]
    · rintro ⟨hfits, -⟩
      obtain ⟨⟨rfl, rfl⟩, hl⟩ := hfits trivial
      simp [hl]
  · next hrun hfault => simp [hrun, hfault]
  · next hrun => simp [hrun]
  · next hrun => simp [hrun]

/-- A halt fits when pc is at an HLT byte (R102). -/
theorem State.haltFits_iff (s : State) :
    s.haltFits = true ↔ (s.run = .halted → s.memRead s.pc = opcodeByte .hlt) := by
  unfold State.haltFits
  cases hrun : s.run <;> simp

/-- A running state with canonical memory and no record has the invariant. -/
theorem State.inv_of_running {s : State} (hmem : s.mem.wf = true) (hrun : s.run = .running) (hfault : s.fault = none) :
    s.Inv :=
  ⟨hmem, s.faultRecordFits_iff.mpr (by simp [hrun, hfault]), s.haltFits_iff.mpr (by simp [hrun])⟩

/-- A handler writes memory at most by the machine's write, so it keeps the canonical form (R51). -/
theorem exec_keeps_mem_wf {i : Instr} {s t : State} (h : exec i s = .next t) (hs : s.mem.wf = true) :
    t.mem.wf = true := by
  cases i with
  | push | call =>
    obtain rfl := Host.Outcome.next.inj h
    exact s.decSp.memWrite_wf _ _ hs
  | hlt | ldi | prn | add | mul | pop | ret | cmp | jmp =>
    obtain rfl := Host.Outcome.next.inj h
    exact hs
  | jeq | jne =>
    obtain rfl := Host.Outcome.next.inj h
    split <;> exact hs

/-- Every handler but HLT's leaves a running block running, with no record; HLT's leaves pc at its own byte. -/
theorem exec_keeps_inv {i : Instr} {s t : State} (hrun : s.run = .running) (hf : s.fetch = .ok i)
    (h : exec i s = .next t) (hs : s.Inv) : t.Inv := by
  obtain ⟨hmem, hrecord, -⟩ := hs
  have hnone : s.fault = none := (s.faultRecordFits_iff.mp hrecord).2 (by simp [hrun])
  by_cases hi : i = .hlt
  · subst hi
    obtain rfl : s.halt = t := Host.Outcome.next.inj h
    exact ⟨hmem, s.halt.faultRecordFits_iff.mpr (by simp [hnone]),
      s.halt.haltFits_iff.mpr fun _ => memRead_pc_of_fetch hf⟩
  · obtain ⟨htrun, htfault, -⟩ := onlyHltAndPrnReachTheHost i s t h
    rw [if_neg hi, hrun] at htrun
    exact State.inv_of_running (exec_keeps_mem_wf h hmem) htrun (htfault.trans hnone)

/-- The exception writes the record that fits (R221). -/
theorem raiseUnknownOpcode_keeps_inv {s : State} (hl : lookup (s.memRead s.pc) = none) (hs : s.Inv) :
    (s.raiseUnknownOpcode ⟨s.memRead s.pc⟩).Inv := by
  obtain ⟨hmem, -, -⟩ := hs
  exact ⟨hmem, (State.faultRecordFits_iff _).mpr (by simp [hl]), (State.haltFits_iff _).mpr (by simp)⟩

/-- Settles O39: by what a step can do. -/
theorem stepKeepsInv : Obligations.StepKeepsInv := by
  intro s t hs h
  obtain ⟨hrun, i, hf, hexec⟩ | ⟨-, hl, rfl⟩ | ⟨-, rfl⟩ := step_cases h
  · exact exec_keeps_inv hrun hf hexec hs
  · exact raiseUnknownOpcode_keeps_inv hl hs
  · exact hs

/-- Settles O40: reset is running with empty memory and no record. -/
theorem resetHasInv : Obligations.ResetHasInv :=
  State.inv_of_running State.reset_mem_wf rfl rfl

/-- The loader changes memory and nothing else (10_state.md R37). -/
theorem State.loadFrom_becomes (image : List Byte) (s : State) (i : Nat) :
    Becomes s (s.loadFrom i image) (mem := (s.loadFrom i image).memRead) := by
  induction image generalizing s i with
  | nil => exact ⟨rfl, fun _ => rfl, rfl, rfl, rfl, fun _ => rfl, rfl⟩
  | cons b rest ih => exact ih (s.memWrite (BitVec.ofNat 8 i) b) (i + 1)

/-- Settles O41: the loader keeps the memory canonical and touches neither run nor the record. -/
theorem bootHasInv : Obligations.BootHasInv := by
  intro image
  obtain ⟨-, -, -, hrun, hfault, -, -⟩ := State.reset.loadFrom_becomes image 0
  exact State.inv_of_running (State.loadFrom_wf image _ 0 State.reset_mem_wf) hrun hfault

/-- Every state a run passes through has the invariant. -/
theorem Reachable.inv {image : List Byte} {s : State} (h : Reachable image s) : s.Inv := by
  induction h with
  | start => exact bootHasInv image
  | next s t _ hstep ih => exact stepKeepsInv s t ih hstep

/-- Settles O42: the record fits in every state with the invariant. -/
theorem reachableFaultIsPrecise : Obligations.ReachableFaultIsPrecise := by
  intro image s h
  obtain ⟨-, hrecord, -⟩ := h.inv
  exact s.faultRecordFits_iff.mp hrecord

end Sys2Proof.Machine
end

/-! ## Proofs: PRN, HLT, PUSH, POP and CALL (41_ldi_prn_hlt.md R101, R102, 43_stack.md, 44_subroutine.md R160) -/

section

namespace Sys2Proof.Machine

open Sys2Proof.Statements

/-- PRN's handler appends the register to the output and advances by its length of 2 (R101). -/
theorem exec_prn_becomes (ra : Nat) (s : State) :
    ∃ t, exec (.prn ra) s = .next t ∧ Becomes s t (pc := s.pc + 2#8) (out := s.out ++ [s.x ra]) :=
  ⟨_, rfl, rfl, fun _ => rfl, rfl, rfl, rfl, fun _ => rfl, rfl⟩

/-- The host renders an appended byte after what it rendered before (R33). -/
theorem renderOut_append_singleton (out : List Byte) (v : Byte) :
    renderOut (out ++ [v]) = renderOut out ++ renderByte v := by
  simp [renderOut]

/-- Settles O14: the step runs the handler on the register that the operand byte selects modulo 8. -/
theorem prnEmitsTheRegister : Obligations.PrnEmitsTheRegister := by
  refine ⟨exec_prn_becomes, fun a s h => ?_, renderOut_append_singleton⟩
  have hstep : step s = exec (.prn (a.toNat % 8)) s := step_of_atBytes_one h
  rw [hstep]
  exact exec_prn_becomes (a.toNat % 8) s

/-- HLT's handler writes the run state and nothing else (R102). -/
theorem exec_hlt_becomes (s : State) : ∃ t, exec .hlt s = .next t ∧ Becomes s t (run := .halted) :=
  ⟨_, rfl, rfl, fun _ => rfl, rfl, rfl, rfl, fun _ => rfl, rfl⟩

/-- Settles O15: the step runs the handler. -/
theorem hltHalts : Obligations.HltHalts := by
  refine ⟨exec_hlt_becomes, fun s h => ?_⟩
  obtain ⟨hrun, hop, -⟩ := h
  have hstep : step s = exec .hlt s := step_of_opcodeByte hrun hop
  rw [hstep]
  exact exec_hlt_becomes s

/-- PUSH's handler stores the register, read after SP moved, at the decremented SP (R141). -/
theorem exec_push_becomes (ra : Nat) (s : State) :
    ∃ t, exec (.push ra) s = .next t ∧ Becomes s t (pc := s.pc + 2#8) (x := withReg s.x 7 (s.x 7 - 1#8))
      (mem := withByte s.memRead (s.x 7 - 1#8) (withReg s.x 7 (s.x 7 - 1#8) ra)) := by
  have hsp : s.decSp.sp = s.x 7 - 1#8 := s.decSp_x 7
  have hvalue : s.decSp.x ra = withReg s.x 7 (s.x 7 - 1#8) ra := s.decSp_x ra
  refine ⟨_, rfl, rfl, s.decSp_x, rfl, rfl, rfl, ?_, rfl⟩
  rw [← hvalue, ← hsp]
  exact s.decSp.memWrite_memRead s.decSp.sp (s.decSp.x ra)

/-- Settles O18: the step runs the handler on the register that the operand byte selects modulo 8. -/
theorem pushStoresBelowSp : Obligations.PushStoresBelowSp := by
  refine ⟨exec_push_becomes, fun a s h => ?_⟩
  have hstep : step s = exec (.push (a.toNat % 8)) s := step_of_atBytes_one h
  rw [hstep]
  exact exec_push_becomes (a.toNat % 8) s

/-- POP's handler loads the byte at SP and then increments SP as it stands (R142). -/
theorem exec_pop_becomes (ra : Nat) (s : State) :
    ∃ t, exec (.pop ra) s = .next t ∧ Becomes s t (pc := s.pc + 2#8)
      (x := withReg (withReg s.x ra (s.memRead (s.x 7))) 7 (withReg s.x ra (s.memRead (s.x 7)) 7 + 1#8)) := by
  have hload : (s.setX ra (s.memRead s.sp)).x = withReg s.x ra (s.memRead (s.x 7)) :=
    funext fun k => s.setX_x ra k (s.memRead s.sp)
  refine ⟨_, rfl, rfl, ?_, rfl, rfl, rfl, fun _ => rfl, rfl⟩
  rw [← hload]
  exact (s.setX ra (s.memRead s.sp)).incSp_x

/-- Settles O19: the step runs the handler on the register that the operand byte selects modulo 8. -/
theorem popLoadsFromSp : Obligations.PopLoadsFromSp := by
  refine ⟨exec_pop_becomes, fun a s h => ?_⟩
  have hstep : step s = exec (.pop (a.toNat % 8)) s := step_of_atBytes_one h
  rw [hstep]
  exact exec_pop_becomes (a.toNat % 8) s

/-- Settles O20: the step runs the handler on the register that the operand byte selects modulo 8. -/
theorem callPushesTheReturnAddress : Obligations.CallPushesTheReturnAddress := by
  refine ⟨exec_call_becomes, fun a s h => ?_⟩
  have hstep : step s = exec (.call (a.toNat % 8)) s := step_of_atBytes_one h
  rw [hstep]
  exact exec_call_becomes (a.toNat % 8) s

/-- A register of a register file just written. -/
theorem withReg_apply_self (x : Nat → Byte) (r : Nat) (v : Byte) : withReg x r v r = v :=
  if_pos rfl

/-- A cell of a memory just written. -/
theorem withByte_apply_self (mem : Byte → Byte) (a v : Byte) : withByte mem a v a = v :=
  if_pos rfl

/-- A second write of one register wins over the first, with another register written between (R21). -/
theorem withReg_withReg_withReg (x : Nat → Byte) (r r' : Nat) (u v w : Byte) :
    withReg (withReg (withReg x r u) r' v) r w = withReg (withReg x r' v) r w := by
  funext k
  by_cases hk : k % 8 = r % 8
  · simp [withReg, hk]
  · simp [withReg, hk]

/-- Settles O26: the results of the three handlers, with R7 as the operand. -/
theorem stackFormsNamingSp : Obligations.StackFormsNamingSp := by
  intro s
  obtain ⟨t, ht, -, hx, -, -, -, hmem, -⟩ := exec_push_becomes 7 s
  obtain ⟨u, hu, -, hux, -⟩ := exec_pop_becomes 7 s
  obtain ⟨v, hv, hvpc, -, -, -, -, hvmem, -⟩ := exec_call_becomes 7 s
  rw [withReg_apply_self] at hmem hvpc
  refine ⟨⟨t, ht, ?_, ?_⟩, ⟨u, hu, ?_⟩, ⟨v, hv, hvpc, ?_⟩⟩
  · rw [hmem, withByte_apply_self]
  · rw [hx, withReg_apply_self]
  · rw [hux, withReg_apply_self, withReg_apply_self]
  · rw [hvmem, hvpc, withByte_apply_self]

/-- Settles O27: POP finds SP one lower and the pushed value there. -/
theorem pushThenPopRoundTrips : Obligations.PushThenPopRoundTrips := by
  intro ra rb s
  obtain ⟨t, ht, htpc, htx, htflags, htrun, htfault, htmem, htout⟩ := exec_push_becomes ra s
  obtain ⟨u, hu, hupc, hux, huflags, hurun, hufault, humem, huout⟩ := exec_pop_becomes rb t
  have hpopped : t.memRead (t.x 7) = withReg s.x 7 (s.x 7 - 1#8) ra := by
    rw [htmem, htx, withReg_apply_self, withByte_apply_self]
  refine ⟨t, u, ht, hu, ?_, fun k => ?_, huflags.trans htflags, hurun.trans htrun, hufault.trans htfault,
    fun a => (humem a).trans (htmem a), huout.trans htout⟩
  · rw [hupc, htpc, BitVec.add_assoc]; rfl
  · have hsp : withReg t.x rb (t.memRead (t.x 7)) 7 + 1#8 =
        if rb % 8 = 7 then withReg s.x 7 (s.x 7 - 1#8) ra + 1#8 else s.x 7 := by
      rw [hpopped]
      by_cases hrb : rb % 8 = 7
      · simp [withReg, hrb]
      · have hkept : withReg t.x rb (withReg s.x 7 (s.x 7 - 1#8) ra) 7 = t.x 7 := if_neg (Ne.symm hrb)
        rw [hkept, htx, withReg_apply_self, BitVec.sub_add_cancel, if_neg hrb]
    rw [hux, hsp, hpopped, funext htx, withReg_withReg_withReg]

/-- Settles O28: the next fetch reads the memory that PUSH left, which is the old one but at pc + 2. -/
theorem nextFetchSeesAPushedByte : Obligations.NextFetchSeesAPushedByte := by
  intro a s h hsp
  obtain ⟨t, hstep, hpc, -, -, -, -, hmem, -⟩ := pushStoresBelowSp.2 a s h
  refine ⟨t, hstep, hpc, ?_⟩
  have hkept {d : Byte} (hd : d ≠ 0#8) : t.memRead (s.pc + 2#8 + d) = s.memRead (s.pc + (2#8 + d)) := by
    rw [hmem, hsp, withByte, if_neg (by simpa using hd), BitVec.add_assoc]
  have hpushed : t.memRead (s.pc + 2#8) = withReg s.x 7 (s.x 7 - 1#8) (a.toNat % 8) := by
    rw [hmem, ← hsp, withByte_apply_self]
  rw [State.fetch, hpc, hpushed, hkept (by decide), hkept (by decide)]
  rfl

end Sys2Proof.Machine
end

/-! ## Proofs: what an instruction and a run leave alone (10_state.md R23, R28, R30, R33, 20_memory.md R52) -/

section

namespace Sys2Proof.Machine

open Sys2Proof.Statements

/-- A handler writes Flags only for CMP, and then by a comparison, which is never Clear (R28, R180). -/
theorem exec_flags {i : Instr} {s t : State} (h : exec i s = .next t) :
    t.flags = s.flags ∨ i.mnemonic = .cmp ∧ t.flags ≠ .clear := by
  cases i with
  | cmp ra rb =>
    obtain rfl := Host.Outcome.next.inj h
    exact .inr ⟨rfl, compareFlags_ne_clear (s.x ra) (s.x rb)⟩
  | hlt | ldi | prn | add | mul | push | pop | call | ret | jmp =>
    obtain rfl := Host.Outcome.next.inj h
    exact .inl rfl
  | jeq | jne =>
    obtain rfl := Host.Outcome.next.inj h
    split <;> exact .inl rfl

/-- Settles O32: only CMP's handler writes Flags, and neither the exception nor a stopped block does. -/
theorem onlyCmpWritesFlags : Obligations.OnlyCmpWritesFlags := by
  intro s t h hne
  obtain ⟨hrun, i, hf, hexec⟩ | ⟨-, -, rfl⟩ | ⟨-, rfl⟩ := step_cases h
  · obtain hsame | ⟨hcmp, hclear⟩ := exec_flags hexec
    · exact absurd hsame hne
    · exact ⟨hrun, by rw [memRead_pc_of_fetch hf, hcmp], hclear⟩
  · exact absurd rfl hne
  · exact absurd rfl hne

/-- A property that every step keeps holds after every run. -/
theorem runFor_preserves {P : State → Prop} (hstep : ∀ s t, P s → step s = .next t → P t) (n : Nat) {s : State}
    (hs : P s) : P (runFor n s) := by
  induction n generalizing s with
  | zero => exact hs
  | succ n ih =>
    obtain ⟨t, ht⟩ := exists_step_next s
    rw [runFor_succ ht]
    exact ih (hstep s t hs ht)

/-- Settles O33: a step that changes Flags does not make it Clear. -/
theorem flagsNeverClearAgain : Obligations.FlagsNeverClearAgain := by
  intro n s t h hs
  obtain rfl := core_run_eq_next.mp h
  refine runFor_preserves (P := fun s => s.flags ≠ .clear) (fun u v hu huv => ?_) n hs
  by_cases hflags : v.flags = u.flags
  · rwa [hflags]
  · obtain ⟨-, -, hclear⟩ := onlyCmpWritesFlags u v huv hflags
    exact hclear

/-- A step appends at most one byte to the output (R33). -/
theorem step_out {s t : State} (h : step s = .next t) : ∃ more, t.out = s.out ++ more ∧ more.length ≤ 1 := by
  have hkept (hout : t.out = s.out) : ∃ more, t.out = s.out ++ more ∧ more.length ≤ 1 := ⟨[], by simp [hout]⟩
  obtain ⟨-, i, -, hexec⟩ | ⟨-, -, rfl⟩ | ⟨-, rfl⟩ := step_cases h
  · obtain ⟨-, -, hout⟩ := onlyHltAndPrnReachTheHost i s t hexec
    cases i with
    | prn ra => exact ⟨[s.x ra], hout, le_rfl⟩
    | hlt | ldi | add | mul | push | pop | call | ret | cmp | jmp | jeq | jne => exact hkept hout
  · exact hkept rfl
  · exact hkept rfl

/-- Settles O34: each step appends at most one byte, and a run appends them in order. -/
theorem outputIsNeverRewritten : Obligations.OutputIsNeverRewritten := by
  intro n s t h
  obtain rfl := core_run_eq_next.mp h
  clear h
  induction n generalizing s with
  | zero => exact ⟨[], (List.append_nil _).symm, le_rfl⟩
  | succ n ih =>
    obtain ⟨u, hu⟩ := exists_step_next s
    obtain ⟨first, hfirst, hfirstLen⟩ := step_out hu
    obtain ⟨more, hmore, hmoreLen⟩ := ih u
    rw [runFor_succ hu]
    refine ⟨first ++ more, by rw [hmore, hfirst, List.append_assoc], ?_⟩
    rw [List.length_append]
    omega

/-- A memory that differs from another but for one written cell differs there. -/
theorem eq_of_withByte_ne {mem : Byte → Byte} {a b v : Byte} (h : withByte mem b v a ≠ mem a) : a = b := by
  by_contra hab
  exact h (if_neg hab)

/-- A handler writes memory only for PUSH and CALL, and only below SP (R52). -/
theorem exec_memRead_ne {i : Instr} {s t : State} {a : Byte} (h : exec i s = .next t)
    (hne : t.memRead a ≠ s.memRead a) : (i.mnemonic = .push ∨ i.mnemonic = .call) ∧ a = s.x 7 - 1#8 := by
  cases i with
  | push ra =>
    obtain ⟨t', ht', -, -, -, -, -, hmem, -⟩ := exec_push_becomes ra s
    obtain rfl := Host.Outcome.next.inj (ht'.symm.trans h)
    rw [hmem] at hne
    exact ⟨.inl rfl, eq_of_withByte_ne hne⟩
  | call ra =>
    obtain ⟨t', ht', -, -, -, -, -, hmem, -⟩ := exec_call_becomes ra s
    obtain rfl := Host.Outcome.next.inj (ht'.symm.trans h)
    rw [hmem] at hne
    exact ⟨.inr rfl, eq_of_withByte_ne hne⟩
  | hlt | ldi | prn | add | mul | pop | ret | cmp | jmp =>
    obtain rfl := Host.Outcome.next.inj h
    exact absurd rfl hne
  | jeq | jne =>
    obtain rfl := Host.Outcome.next.inj h
    refine absurd ?_ hne
    split <;> rfl

/-- Settles O35: only those two handlers write memory, and neither the exception nor a stopped block does. -/
theorem onlyPushAndCallWriteMemory : Obligations.OnlyPushAndCallWriteMemory := by
  intro s t a h hne
  obtain ⟨hrun, i, hf, hexec⟩ | ⟨-, -, rfl⟩ | ⟨-, rfl⟩ := step_cases h
  · obtain ⟨hi, ha⟩ := exec_memRead_ne hexec hne
    rw [memRead_pc_of_fetch hf]
    exact ⟨hrun, hi.imp (congrArg opcodeByte) (congrArg opcodeByte), ha⟩
  · exact absurd rfl hne
  · exact absurd rfl hne

/-- A register not among one named is another one. -/
theorem ne_of_not_names {r k : Nat} {l : List Nat} (h : ¬ Names l k) (hr : r ∈ l) : k % 8 ≠ r % 8 :=
  fun hk => h ⟨r, hr, hk.symm⟩

/-- A write of a register among those named leaves every other one. -/
theorem State.setX_x_of_not_names {r k : Nat} {l : List Nat} (h : ¬ Names l k) (hr : r ∈ l) (s : State) (v : Byte) :
    (s.setX r v).x k = s.x k := by
  rw [State.setX_x, if_neg (ne_of_not_names h hr)]

/-- Settles O36: the handlers write registers only by the register file's write of a register named. -/
theorem onlyNamedRegistersAreWritten : Obligations.OnlyNamedRegistersAreWritten := by
  intro i s t k h hk
  have hset {r : Nat} (hr : r ∈ regsWritten i) := State.setX_x_of_not_names hk hr
  cases i with
  | hlt | prn | cmp | jmp =>
    obtain rfl := Host.Outcome.next.inj h
    rfl
  | jeq | jne =>
    obtain rfl := Host.Outcome.next.inj h
    split <;> rfl
  | ldi ra | add ra | mul ra =>
    obtain rfl := Host.Outcome.next.inj h
    exact hset (r := ra) (by simp [regsWritten]) s _
  | push | call | ret =>
    obtain rfl := Host.Outcome.next.inj h
    exact hset (r := 7) (by simp [regsWritten]) s _
  | pop ra =>
    obtain rfl := Host.Outcome.next.inj h
    exact (hset (r := 7) (by simp [regsWritten]) (s.setX ra _) _).trans (hset (r := ra) (by simp [regsWritten]) s _)

/-- Settles O38: the handlers at most write the output and the run state, so the same registers, pc, Flags and memory come
out by computation. -/
theorem hostVisibleStateIsNeverRead : Obligations.HostVisibleStateIsNeverRead := by
  intro i s t out run fault h
  cases i with
  | hlt | ldi | prn | add | mul | push | pop | call | ret | cmp | jmp =>
    obtain rfl := Host.Outcome.next.inj h
    exact ⟨_, rfl, rfl, rfl, rfl, rfl⟩
  | jeq | jne =>
    obtain rfl := Host.Outcome.next.inj h
    refine ⟨_, rfl, ?_⟩
    split <;> exact ⟨rfl, rfl, rfl, rfl⟩

end Sys2Proof.Machine
end

/-! ## Proofs: the registers an instruction reads (10_state.md R23) -/

section

namespace Sys2Proof.Machine

open Sys2Proof.Statements

/-- Another value in a register that is not among those named is not seen by a read of one that is. -/
theorem State.x_setX_of_not_names {r k : Nat} {l : List Nat} (h : ¬ Names l k) (hr : r ∈ l) (s : State) (v : Byte) :
    (s.setX k v).x r = s.x r := by
  rw [State.setX_x, if_neg (ne_of_not_names h hr).symm]

/-- Moving SP down commutes with a write of another register. -/
theorem State.decSp_setX {k : Nat} (h : k % 8 ≠ 7) (s : State) (v : Byte) : (s.setX k v).decSp = s.decSp.setX k v := by
  have hsp : (s.setX k v).sp = s.sp := by simp [Ne.symm h]
  rw [State.decSp, hsp]
  exact s.setX_setX_comm h v _

/-- Moving SP up commutes with a write of another register. -/
theorem State.incSp_setX {k : Nat} (h : k % 8 ≠ 7) (s : State) (v : Byte) : (s.setX k v).incSp = s.incSp.setX k v := by
  have hsp : (s.setX k v).sp = s.sp := by simp [Ne.symm h]
  rw [State.incSp, hsp]
  exact s.setX_setX_comm h v _

/-- Only LDI and POP write a register they do not read, their destination, and what they write there does not depend on
what it held. -/
theorem exec_setX_of_written {i : Instr} {k : Nat} (hread : ¬ Names (regsRead i) k) (hwritten : Names (regsWritten i) k)
    (s : State) (v : Byte) : exec i (s.setX k v) = exec i s := by
  obtain ⟨r, hr, hrk⟩ := hwritten
  have hdest (hmem : r ∈ regsRead i) : exec i (s.setX k v) = exec i s := absurd ⟨r, hmem, hrk⟩ hread
  cases i with
  | ldi ra imm =>
    obtain rfl := List.mem_singleton.mp hr
    simp only [exec, execLdi, State.setX_setX_same s hrk.symm]
  | pop ra =>
    obtain rfl | hsp := List.mem_cons.mp hr
    · have hload : (s.setX k v).x 7 = s.x 7 := State.x_setX_of_not_names hread (by simp [regsRead]) s v
      simp only [exec, execPop, State.sp_eq, hload, State.setX_memRead, State.setX_setX_same s hrk.symm]
    · exact hdest hsp
  | hlt | prn | add | mul | push | call | ret | cmp | jmp | jeq | jne =>
    exact hdest (by revert hr; simp +contextual [regsRead, regsWritten])

/-- A register an instruction neither reads nor writes keeps another value put there, and nothing else is changed by it. -/
theorem exec_setX_of_unnamed {i : Instr} {k : Nat} {s t : State} (hread : ¬ Names (regsRead i) k)
    (hwritten : ¬ Names (regsWritten i) k) (v : Byte) (h : exec i s = .next t) :
    exec i (s.setX k v) = .next (t.setX k v) := by
  have hx {r : Nat} (hr : r ∈ regsRead i) (u : State) : (u.setX k v).x r = u.x r :=
    State.x_setX_of_not_names hread hr u v
  have hne {r : Nat} (hr : r ∈ regsWritten i) : k % 8 ≠ r % 8 := ne_of_not_names hwritten hr
  cases i with
  | hlt =>
    obtain rfl := Host.Outcome.next.inj h
    rfl
  | prn ra | jmp ra =>
    obtain rfl := Host.Outcome.next.inj h
    simp only [exec, execPrn, execJmp, hx (r := ra) (by simp [regsRead])]
    rfl
  | jeq ra | jne ra =>
    obtain rfl := Host.Outcome.next.inj h
    simp only [exec, execJeq, execJne, State.setX_flags, hx (r := ra) (by simp [regsRead])]
    split <;> rfl
  | cmp ra rb =>
    obtain rfl := Host.Outcome.next.inj h
    simp only [exec, execCmp, hx (r := ra) (by simp [regsRead]), hx (r := rb) (by simp [regsRead])]
    rfl
  | ldi ra imm =>
    obtain rfl := Host.Outcome.next.inj h
    simp only [exec, execLdi, State.setX_setX_comm s (hne (r := ra) (by simp [regsWritten]))]
    rfl
  | add ra rb | mul ra rb =>
    obtain rfl := Host.Outcome.next.inj h
    simp only [exec, execAdd, execMul, hx (r := ra) (by simp [regsRead]), hx (r := rb) (by simp [regsRead]),
      State.setX_setX_comm s (hne (r := ra) (by simp [regsWritten]))]
    rfl
  | push ra | call ra =>
    obtain rfl := Host.Outcome.next.inj h
    simp only [exec, execPush, execCall, State.decSp_setX (hne (r := 7) (by simp [regsWritten])), State.sp_eq,
      State.memWrite_x, hx (r := ra) (by simp [regsRead]), hx (r := 7) (by simp [regsRead])]
    rfl
  | pop ra =>
    obtain rfl := Host.Outcome.next.inj h
    simp only [exec, execPop, State.sp_eq, State.setX_memRead, hx (r := 7) (by simp [regsRead]),
      State.setX_setX_comm s (hne (r := ra) (by simp [regsWritten])),
      State.incSp_setX (hne (r := 7) (by simp [regsWritten]))]
    rfl
  | ret =>
    obtain rfl := Host.Outcome.next.inj h
    simp only [exec, execRet, State.sp_eq, State.setX_memRead, hx (r := 7) (by simp [regsRead])]
    exact congrArg Host.Outcome.next
      (State.incSp_setX (hne (r := 7) (by simp [regsWritten])) (s.setPc (s.memRead (s.x 7))) v)

/-- Settles O37: a register not read is overwritten unseen, or is carried through. -/
theorem onlyNamedRegistersAreRead : Obligations.OnlyNamedRegistersAreRead :=
  fun _ s _ _ v h hread => ⟨fun hwritten => (exec_setX_of_written hread hwritten s v).trans h,
    fun hwritten => exec_setX_of_unnamed hread hwritten v h⟩

end Sys2Proof.Machine
end

/-! ## Proofs: memory contents, reset and the loader (10_state.md R34, R38, 70_reset_and_hazards.md R250, R251) -/

section

namespace Sys2Proof.Machine

open Sys2Proof.Statements

/-- The canonical form of a list with a first entry. -/
theorem Memory.wfFrom_cons {lo k : Nat} {v : Byte} {rest : Memory} : Memory.wfFrom lo ((k, v) :: rest) = true ↔
    (lo ≤ k ∧ k < 256 ∧ v ≠ Config.unlistedByte) ∧ Memory.wfFrom (k + 1) rest = true := by
  simp [Memory.wfFrom, and_assoc]

/-- A canonical memory from an address on lists nothing below it. -/
theorem Memory.read_of_lt_of_wfFrom {m : Memory} {lo a : Nat} (hm : m.wfFrom lo = true) (ha : a < lo) :
    m.read a = Config.unlistedByte := by
  induction m generalizing lo with
  | nil => rfl
  | cons c rest ih =>
    obtain ⟨k, v⟩ := c
    obtain ⟨⟨hlo, -, -⟩, hrest⟩ := Memory.wfFrom_cons.mp hm
    rw [Memory.read, if_neg (by omega)]
    exact ih hrest (by omega)

/-- A memory's first address reads as listed, so a canonical one that reads alike lists no later address first. -/
theorem Memory.le_of_read_eq {k k' : Nat} {v : Byte} {rest m' : Memory} (hv : v ≠ Config.unlistedByte)
    (hm' : m'.wfFrom k' = true) (hread : Memory.read ((k, v) :: rest) k = m'.read k) : k' ≤ k := by
  by_contra hlt
  rw [Memory.read_of_lt_of_wfFrom hm' (by omega), Memory.read, if_pos rfl] at hread
  exact hv hread

/-- Reading a list past its first entry, in a canonical memory: at that entry's address the rest reads as unlisted. -/
theorem Memory.read_tail {k a : Nat} {v : Byte} {rest : Memory} (hrest : rest.wfFrom (k + 1) = true) :
    rest.read a = if k = a then Config.unlistedByte else Memory.read ((k, v) :: rest) a := by
  by_cases hk : k = a
  · rw [if_pos hk]
    exact Memory.read_of_lt_of_wfFrom hrest (by omega)
  · rw [if_neg hk, Memory.read, if_neg hk]

/-- Canonical memories from an address on that read alike are equal: by induction, their first entries agree and so do the
rests. -/
theorem Memory.eq_of_wfFrom {m m' : Memory} {lo lo' : Nat} (hm : m.wfFrom lo = true) (hm' : m'.wfFrom lo' = true)
    (hread : ∀ a, a < 256 → m.read a = m'.read a) : m = m' := by
  induction m generalizing m' lo lo' with
  | nil =>
    cases m' with
    | nil => rfl
    | cons c' rest' =>
      obtain ⟨k', v'⟩ := c'
      obtain ⟨⟨-, hk', hv'⟩, -⟩ := Memory.wfFrom_cons.mp hm'
      have hle := Memory.le_of_read_eq (m' := []) (k' := k' + 1) hv' rfl (hread k' hk').symm
      omega
  | cons c rest ih =>
    obtain ⟨k, v⟩ := c
    obtain ⟨⟨-, hk, hv⟩, hrest⟩ := Memory.wfFrom_cons.mp hm
    cases m' with
    | nil =>
      have hle := Memory.le_of_read_eq (m' := []) (k' := k + 1) hv rfl (hread k hk)
      omega
    | cons c' rest' =>
      obtain ⟨k', v'⟩ := c'
      obtain ⟨⟨-, hk', hv'⟩, hrest'⟩ := Memory.wfFrom_cons.mp hm'
      have hle : k' ≤ k := Memory.le_of_read_eq hv (Memory.wfFrom_cons.mpr ⟨⟨le_rfl, hk', hv'⟩, hrest'⟩) (hread k hk)
      have hle' : k ≤ k' :=
        Memory.le_of_read_eq hv' (Memory.wfFrom_cons.mpr ⟨⟨le_rfl, hk, hv⟩, hrest⟩) (hread k' hk').symm
      obtain rfl : k = k' := by omega
      obtain rfl : v = v' := by simpa [Memory.read] using hread k hk
      have htails : rest = rest' := ih hrest hrest' fun a ha => by
        rw [Memory.read_tail (v := v) hrest, Memory.read_tail (v := v) hrest', hread a ha]
      rw [htails]

/-- Settles O44: an address below 256 is a byte's number. -/
theorem canonicalMemoryIsUnique : Obligations.CanonicalMemoryIsUnique := by
  intro m m' hm hm' hread
  refine Memory.eq_of_wfFrom hm hm' fun a ha => ?_
  have hbyte : (BitVec.ofNat 8 a).toNat = a := by simp; omega
  simpa [hbyte] using hread (BitVec.ofNat 8 a)

/-- Settles O45: the seven registers by evaluation, the rest by definition. -/
theorem resetStateIsR38 : Obligations.ResetStateIsR38 :=
  ⟨by decide, rfl, rfl, rfl, rfl, rfl, rfl, fun _ => rfl⟩

/-- A cell that no byte of the image goes to keeps its byte (R250). -/
theorem State.loadFrom_memRead_of_unloaded {image : List Byte} {s : State} {i : Nat} {a : Byte}
    (h : ∀ j, j < image.length → (i + j) % 256 ≠ a.toNat) : (s.loadFrom i image).memRead a = s.memRead a := by
  induction image generalizing s i with
  | nil => rfl
  | cons b rest ih =>
    have hhere : a ≠ BitVec.ofNat 8 i := by
      rintro rfl
      exact h 0 (by simp) (by simp)
    have hrest : ∀ j, j < rest.length → (i + 1 + j) % 256 ≠ a.toNat := by
      intro j hj
      rw [Nat.add_assoc, Nat.add_comm 1]
      exact h (j + 1) (by simpa using hj)
    rw [State.loadFrom, ih hrest, State.memWrite_memRead, if_neg hhere]

/-- The last byte of the image that goes to a cell is what the cell holds (R250, R251). -/
theorem State.loadFrom_memRead_of_last {image : List Byte} {s : State} {i k : Nat} (hk : k < image.length)
    (hlast : ∀ j, k < j → j < image.length → (i + j) % 256 ≠ (i + k) % 256) :
    (s.loadFrom i image).memRead (BitVec.ofNat 8 (i + k)) = image[k] := by
  induction image generalizing s i k with
  | nil => simp at hk
  | cons b rest ih =>
    have hindex (j : Nat) : i + 1 + j = i + (j + 1) := by omega
    rw [State.loadFrom]
    cases k with
    | zero =>
      rw [State.loadFrom_memRead_of_unloaded, State.memWrite_memRead, Nat.add_zero, if_pos rfl,
        List.getElem_cons_zero]
      intro j hj
      rw [hindex, BitVec.toNat_ofNat]
      exact hlast (j + 1) (by omega) (by simpa using hj)
    | succ k =>
      rw [← hindex k, List.getElem_cons_succ]
      refine ih (by simpa using hk) fun j hkj hj => ?_
      rw [hindex, hindex]
      exact hlast (j + 1) (by omega) (by simpa using hj)

/-- Settles O46: what the loader writes from address 0, on the memory of reset. -/
theorem bootLoadsTheImage : Obligations.BootLoadsTheImage := by
  intro image
  refine ⟨fun i hi hlast => ?_, fun a h => ?_, State.reset.loadFrom_becomes image 0⟩
  · have hloaded := State.loadFrom_memRead_of_last (s := State.reset) (i := 0) hi (by simpa using hlast)
    rwa [Nat.zero_add] at hloaded
  · exact State.loadFrom_memRead_of_unloaded (s := State.reset) (i := 0) (by simpa using h)

end Sys2Proof.Machine
end

/-! ## Proofs: the program text and the rendered output (70_reset_and_hazards.md R250, 10_state.md R33) -/

section

namespace Sys2Proof.Machine

open Sys2Proof.Statements

/-- The character of a binary digit. -/
def bitChar (bit : Bool) : Char := if bit then '1' else '0'

theorem isBlank_bitChar (bit : Bool) : isBlank (bitChar bit) = false := by
  cases bit <;> decide

theorem bitChar_ne_hash (bit : Bool) : bitChar bit ≠ '#' := by
  cases bit <;> decide

theorem bitChar_ne_newline (bit : Bool) : bitChar bit ≠ '\n' := by
  cases bit <;> decide

/-- A digit doubles the value read so far and adds itself. -/
theorem binaryValue_bitChar_cons (acc : Nat) (bit : Bool) (rest : List Char) :
    binaryValue acc (bitChar bit :: rest) = binaryValue (2 * acc + bit.toNat) rest := by
  cases bit <;> simp [binaryValue, bitChar]

/-- The digits of a number below a position, the most significant first, complete the value of the digits above it. -/
theorem binaryValue_testBits (n k : Nat) :
    binaryValue (n / 2 ^ k) ((List.range k).reverse.map fun j => bitChar (n.testBit j)) = some n := by
  induction k with
  | zero => simp [binaryValue]
  | succ k ih =>
    have hdigit : 2 * (n / 2 ^ (k + 1)) + (n.testBit k).toNat = n / 2 ^ k := by
      rw [Nat.pow_succ, ← Nat.div_div_eq_div_mul, Nat.toNat_testBit]
      omega
    rw [List.range_succ, List.reverse_append, List.reverse_singleton, List.singleton_append, List.map_cons,
      binaryValue_bitChar_cons, hdigit, ih]

/-- A byte's eight digits are those of its number below position 8. -/
theorem binaryDigits_eq (v : Byte) :
    binaryDigits v = (List.range 8).reverse.map fun j => bitChar (v.toNat.testBit j) := rfl

theorem exists_bitChar_of_mem_binaryDigits {v : Byte} {c : Char} (h : c ∈ binaryDigits v) : ∃ bit, c = bitChar bit := by
  obtain ⟨k, -, rfl⟩ := List.mem_map.mp h
  exact ⟨v.getLsbD k, rfl⟩

/-- A byte's digits have its value. -/
theorem binaryValue_binaryDigits (v : Byte) : binaryValue 0 (binaryDigits v) = some v.toNat := by
  have hhigh : v.toNat / 2 ^ 8 = 0 := Nat.div_eq_of_lt v.isLt
  have hvalue := binaryValue_testBits v.toNat 8
  rwa [hhigh, ← binaryDigits_eq] at hvalue

theorem exists_binaryDigits_eq_cons (v : Byte) : ∃ c rest, binaryDigits v = c :: rest := ⟨_, _, rfl⟩

/-- A token of a byte's digits is that byte (R250). -/
theorem parseToken_binaryDigits (v : Byte) : parseToken (binaryDigits v) = some v := by
  have hvalue := binaryValue_binaryDigits v
  obtain ⟨c, rest, hcons⟩ := exists_binaryDigits_eq_cons v
  rw [hcons] at hvalue ⊢
  simp [parseToken, hvalue, v.isLt]

/-- A line without white space has none around it. -/
theorem strip_of_not_blank {line : List Char} (h : ∀ c ∈ line, isBlank c = false) : strip line = line := by
  have hkept {l : List Char} (hl : ∀ c ∈ l, isBlank c = false) : l.dropWhile isBlank = l := by
    cases l with
    | nil => rfl
    | cons c rest => simp [hl c (by simp)]
  rw [strip, hkept h, hkept (by simpa using h), List.reverse_reverse]

/-- A line without a comment marker is all before it. -/
theorem beforeComment_of_no_hash {line : List Char} (h : ∀ c ∈ line, c ≠ '#') : beforeComment line = line :=
  List.takeWhile_eq_self_iff.mpr fun c hc => decide_eq_true (h c hc)

/-- A line of a byte's digits is that byte (R250). -/
theorem parseLine_binaryDigits (v : Byte) : parseLine (binaryDigits v) = some [v] := by
  have hstrip : strip (binaryDigits v) = binaryDigits v := strip_of_not_blank fun c hc => by
    obtain ⟨bit, rfl⟩ := exists_bitChar_of_mem_binaryDigits hc
    exact isBlank_bitChar bit
  have hcomment : beforeComment (binaryDigits v) = binaryDigits v := beforeComment_of_no_hash fun c hc => by
    obtain ⟨bit, rfl⟩ := exists_bitChar_of_mem_binaryDigits hc
    exact bitChar_ne_hash bit
  have htoken := parseToken_binaryDigits v
  obtain ⟨c, rest, hcons⟩ := exists_binaryDigits_eq_cons v
  rw [hcons] at hstrip hcomment htoken ⊢
  simp only [parseLine, hstrip, hcomment, htoken]

/-- A line ends at its newline character. -/
theorem splitLines_append_newline {line : List Char} (h : ∀ c ∈ line, c ≠ '\n') (rest : List Char) :
    splitLines (line ++ '\n' :: rest) = line :: splitLines rest := by
  induction line with
  | nil => simp [splitLines]
  | cons c line ih =>
    obtain ⟨hc, hline⟩ := List.forall_mem_cons.mp h
    simp only [List.cons_append, splitLines, if_neg hc, ih hline]

/-- The text of an image has a byte's digits on its first line, and the rest of the image after it. -/
theorem programText_cons (v : Byte) (image : List Byte) :
    programText (v :: image) = binaryDigits v ++ '\n' :: programText image := by
  simp [programText]

/-- An image's text is parsed back, by induction on its lines; after the last one there is an empty line. -/
theorem parseProgram_programText (image : List Byte) : parseProgram (programText image) = some image := by
  induction image with
  | nil => rfl
  | cons v image ih =>
    have hline : ∀ c ∈ binaryDigits v, c ≠ '\n' := fun c hc => by
      obtain ⟨bit, rfl⟩ := exists_bitChar_of_mem_binaryDigits hc
      exact bitChar_ne_newline bit
    rw [parseProgram] at ih
    rw [parseProgram, programText_cons, splitLines_append_newline hline]
    simp only [parseLines, parseLine_binaryDigits, ih, List.singleton_append]

/-- Settles O47: the text is parsed back, and a parsed text starts a run of its image. -/
theorem loaderReadsBackTheProgramText : Obligations.LoaderReadsBackTheProgramText :=
  fun image => ⟨parseProgram_programText image, congrArg launch (parseProgram_programText image)⟩

/-- The decimal digits of a nonzero number do not begin with 0: the first digit is that of the leading quotient. -/
theorem head?_toDigits_ne_zero {n : Nat} (hn : n ≠ 0) : (Nat.toDigits 10 n).head? ≠ some '0' := by
  induction n using Nat.strongRecOn with
  | ind n ih =>
    obtain hlt | hle := Nat.lt_or_ge n 10
    · simpa [Nat.toDigits_of_lt_base hlt] using hn
    · rw [Nat.toDigits_of_base_le (by decide) hle, List.head?_append_of_ne_nil _ Nat.toDigits_ne_nil]
      exact ih (n / 10) (by omega) (by omega)

/-- A character that is a decimal digit lies between 0 and 9. -/
theorem zero_le_and_le_nine_of_isDigit {c : Char} (h : c.isDigit = true) : '0' ≤ c ∧ c ≤ '9' := by
  simpa [Char.isDigit, Char.le_def] using h

/-- Settles O48: the library's digits of the byte's number, before the newline. -/
theorem renderedByteIsItsDecimal : Obligations.RenderedByteIsItsDecimal := by
  intro v
  have hdigits : (renderByte v).dropLast = Nat.toDigits 10 v.toNat := List.dropLast_concat
  dsimp only
  rw [hdigits]
  refine ⟨rfl, Nat.toDigits_ne_nil, fun c hc => ?_, ?_, fun hzero => ?_⟩
  · exact zero_le_and_le_nine_of_isDigit (Nat.isDigit_of_mem_toDigits (by decide) le_rfl hc)
  · exact Nat.ofDigitChars_eq_foldl.symm.trans Nat.ofDigitChars_ten_toDigits
  · have hv : v.toNat = 0 := by
      by_contra hne
      exact head?_toDigits_ne_zero hne hzero
    rw [hv, Nat.toDigits_zero]

end Sys2Proof.Machine
end
